-- ==== Sys2Proof/Word.lean ====
section
/-! DEFINITION. The words of the SH-1640 and its plainest number types: 64-bit registers, 512-bit lines, the fields of a
home packet (Table 3-1), and the sparse table every large store of the block is held in. -/

namespace Sys2Proof

/-- A register or memory word: 64 bits, bit 0 least significant (00, "Bit and byte order"). -/
abbrev Word := BitVec 64
/-- A line payload: byte k is bits 8k+7..8k (R72). -/
abbrev Line := BitVec 512
/-- A line address PA[51:6] (Table 3-1). -/
abbrev LAddr := BitVec 46
/-- An agent ID (R68). -/
abbrev AgentId := BitVec 8
/-- An instance number or PASID selector (R68, R70). -/
abbrev InstId := BitVec 8
/-- A request tag or home tag (R69, R81). -/
abbrev Tag := BitVec 16
/-- A host-port byte address (Table 2-4). -/
abbrev HpAddr := BitVec 24
/-- A host-port context (Table 2-4). -/
abbrev Ctx := BitVec 4
/-- A channel number (R9). -/
abbrev Ch := Fin 16
/-- A tile number within a channel (R10). -/
abbrev TileId := Fin 16

/-- A sparse table: pairs of key and value. Its canonical form (keys strictly rising) is `Machine.Tab.wf`. -/
abbrev Tab (α : Type) := List (Nat × α)

end Sys2Proof
end

