-- ==== Sys2Proof/Syntax.lean ====
section
/-! DEFINITION. The commands of the block: `Instr`, one constructor per row of spec/opcode_table.json, and the types of
their operands. An operand is what the row's step takes from outside the modelled state: the fields of a packet or of a
host-port access, how many PCLK edges have passed since the previous command of a port (`gap`), a physical finding (a CRC
check, a barometer reading, a self-test), or a choice the spec leaves open (`way`). -/

namespace Sys2Proof

/-- The two request ports (Table 2-1). -/
inductive Port | a | b
  deriving DecidableEq, Repr

/-- The four egress ports (Table 2-1). -/
inductive EgrPort | vrs | dout | sno | mrq
  deriving DecidableEq, Repr

/-- The three answer ports into the block (Table 2-1). -/
inductive InPort | sni | din | mrs
  deriving DecidableEq, Repr

/-- The two banks of a tile (R231): the snoop filter bank and the line-cache bank. -/
inductive Bank | sf | lc
  deriving DecidableEq, Repr

/-- A request as it crosses IRQ_A or IRQ_B (Tables 3-1, 3-2): its header fields, its port, the PCLK edges since the last
command of a port (R5), and where the search for an invalid way starts should the request allocate a directory entry (the
spec does not say which invalid way is taken: assumption 8). -/
structure ReqIn where
  gap : Nat
  port : Port
  agent : AgentId
  tag : Tag
  laddr : LAddr
  psel : InstId
  anchor : Bool
  prio : BitVec 2
  subtype : BitVec 7
  way : Fin 16
  deriving DecidableEq, Repr

/-- A snoop answer as it crosses SNI (Table 3-2). -/
structure RspIn where
  gap : Nat
  agent : AgentId
  tag : Tag
  laddr : LAddr
  deriving DecidableEq, Repr

/-- A packet with a line as it crosses DIN or MRS (R72). `early` is read for WDATA only: the packet's own request is being
presented and has not yet crossed (R87, record cause 3). -/
structure DataIn where
  gap : Nat
  agent : AgentId
  tag : Tag
  laddr : LAddr
  poison : Bool
  data : Line
  mask : Word
  early : Bool
  deriving DecidableEq, Repr

/-- What a TRACKER microstep does to its flow's entry (Table 8-5). -/
inductive TrkOp | chain | plan | anchor | release
  deriving DecidableEq, Repr

/-- Which scrubber steps (R319): a tile's, the channel's for queue memories and flow store, or the journal's. -/
inductive Scrubber
  | tile (c : Ch) (t : TileId)
  | chan (c : Ch)
  | journal
  deriving DecidableEq, Repr

/-- What the two stewards do with one step of a recovery action (R329, R330): whether their outputs agree, and what each
one's self-test gives should it be run. -/
structure StewardRun where
  agree : Bool
  pass0 : Bool
  pass1 : Bool
  deriving DecidableEq, Repr

/-- The check of an engine that ENGINE_WATCHDOG stands for (R332): the engine, even or odd; `check` tells the duplicate
next-address unit or the residue check from the watchdog. -/
structure EngineCheck where
  odd : Bool
  check : Bool
  deriving DecidableEq, Repr

/-- The block that SHADOW_REBUILD mends (R333): its row, and whether the shadow's words are uncorrectable too. -/
structure ShadowRow where
  row : Nat
  lost : Bool
  deriving DecidableEq, Repr

/-- What the start-up tests of a channel find (Table 17-1): engines, rings and stewards that fail. -/
structure StartUp where
  engines : BitVec 32
  xRings : BitVec 4
  yRings : BitVec 4
  steward0 : Bool
  steward1 : Bool
  deriving DecidableEq, Repr

/-- What passes with one REFCLK tick (R114): the PCLK edges, and how many read and write responses the host has taken by
its end (R39). -/
structure TickIn where
  edges : Nat
  taken : Nat
  deriving DecidableEq, Repr

/-- The commands, one per row of the opcode table, in its order. -/
inductive Instr
  -- requests on IRQ_A and IRQ_B
  | rdShd (c : Ch) (r : ReqIn)
  | rdOwn (c : Ch) (r : ReqIn)
  | rdAny (c : Ch) (r : ReqIn)
  | rdCur (c : Ch) (r : ReqIn)
  | rdSpec (c : Ch) (r : ReqIn)
  | upgrade (c : Ch) (r : ReqIn)
  | invAll (c : Ch) (r : ReqIn)
  | wrFull (c : Ch) (r : ReqIn)
  | wrPtl (c : Ch) (r : ReqIn)
  | atomic (c : Ch) (r : ReqIn)
  | evict (c : Ch) (r : ReqIn)
  | biConflict (c : Ch) (r : ReqIn)
  -- answers and data into the block
  | rspI (c : Ch) (r : RspIn)
  | rspS (c : Ch) (r : RspIn)
  | rspE (c : Ch) (r : RspIn)
  | rspID (c : Ch) (r : RspIn)
  | rspSD (c : Ch) (r : RspIn)
  | wdata (c : Ch) (d : DataIn)
  | sdata (c : Ch) (d : DataIn)
  | memFill (c : Ch) (d : DataIn)
  | memRmw (c : Ch) (d : DataIn)
  | memAtomRes (c : Ch) (d : DataIn)
  -- egress
  | egressCrossing (c : Ch) (p : EgrPort) (gap : Nat)
  | egressStall (c : Ch) (p : EgrPort)
  -- arbiters and microsteps
  | engineDispatch (c : Ch) (t : TileId)
  | bankPortGrant (c : Ch) (t : TileId) (b : Bank)
  | move (c : Ch) (t : TileId) (odd : Bool) (dst : Fin 16) (val : Word)
  | dirRd (c : Ch) (t : TileId) (odd : Bool)
  | dirWr (c : Ch) (t : TileId) (odd : Bool) (way : Fin 16)
  | lcAcc (c : Ch) (t : TileId) (odd : Bool)
  | snoop (c : Ch) (t : TileId) (odd : Bool)
  | memreq (c : Ch) (t : TileId) (odd : Bool)
  | send (c : Ch) (t : TileId) (odd : Bool)
  | wait (c : Ch) (t : TileId) (odd : Bool)
  | branch (c : Ch) (t : TileId) (odd : Bool) (taken : Bool)
  | tracker (c : Ch) (t : TileId) (odd : Bool) (op : TrkOp)
  | endFlow (c : Ch) (t : TileId) (odd : Bool)
  | illegalMicroword (c : Ch) (t : TileId) (odd : Bool)
  -- tracker, hold limits, starvation, timeouts
  | trackerEntryRelease (c : Ch) (t : TileId) (n : Nat)
  | anchorLapse (c : Ch) (agent : AgentId)
  | engineHoldCutoff (c : Ch) (t : TileId) (odd : Bool)
  | bankHoldCutoff (c : Ch) (t : TileId) (b : Bank)
  | starvationOnset (c : Ch) (t : TileId) (engine : Bool) (cls : Fin 9)
  | wdataTimeout (c : Ch) (agent : AgentId) (tag : Tag) (laddr : LAddr)
  | snoopTimeout (c : Ch) (home : Tag) (agent : AgentId) (laddr : LAddr)
  | memTimeout (c : Ch) (home : Tag)
  | mrsReservationEnd (c : Ch) (home : Tag)
  -- rings
  | flitHop (c : Ch) (r : Fin 8) (bad : List Nat)
  | resend (c : Ch) (r : Fin 8) (stop : Nat)
  | injectionClaim (c : Ch) (r : Fin 8) (stop : Nat)
  | slotFrameStart (c : Ch) (r : Fin 8)
  -- clocks and liveness
  | barometerTick (gap : TickIn) (readings : List (List (BitVec 12)))
  | pclkWindowEnd (c : Ch)
  | aliveToggle (c : Ch)
  | adAliveTransition (k : Fin 128)
  | mcAliveTransition (c : Ch)
  | adapterLost (k : Fin 128)
  | mcLost (c : Ch)
  -- resets
  | coldResetAssert
  | coldResetRelease
  | warmResetAssert
  | warmResetRelease
  -- integrity
  | gaugeLeak (c : Ch) (g : Fin 8)
  | wayCountDecay (c : Ch) (t : TileId) (w : Fin 16)
  | scrubStep (who : Scrubber)
  -- recovery
  | engineWatchdog (c : Ch) (t : TileId) (x : EngineCheck)
  | engineFailover (c : Ch) (t : TileId) (odd : Bool)
  | shadowRebuild (c : Ch) (t : TileId) (ctxArray : Bool) (x : ShadowRow)
  | stewardRollback (c : Ch) (run : StewardRun)
  | recoveryWatchdog (c : Ch)
  | ringRetirement (c : Ch) (r : Fin 8)
  | broadcastInvalidation (c : Ch) (t : TileId) (ext : Bool) (row : Nat)
  | reclaimStep (c : Ch) (t : TileId)
  -- maintenance, quiet points, notices and ends
  | maintStep (c : Ch) (t : TileId) (job : Nat)
  | quietPoint (c : Ch)
  | snapshotEdge
  | gateNoticeWindowEnd (c : Ch)
  | gateSwapDone (c : Ch)
  | holdLapse (slot : Fin 64)
  | holdGranted (slot : Fin 64)
  | rawHoldLapse (c : Ch)
  | queueMoveEnd (c : Ch) (q : Fin 256)
  | queueFlushBoundary (c : Ch) (q : Fin 256)
  | instanceQuiesced (inst : InstId)
  | drainQuiesced (c : Ch)
  | drainLimitPassed (c : Ch)
  | channelClamp (c : Ch)
  | ddSettleElapsed (c : Ch)
  | channelPowerUp (c : Ch)
  | channelResetDone (c : Ch) (test : StartUp)
  | poolAccessReissue (c : Ch)
  -- host-port writes and commands
  | registerWrite (ctx : Ctx) (addr : HpAddr) (value : Word)
  | updCmd (ctx : Ctx) (groups : BitVec 32)
  | snapCmd (ctx : Ctx) (channels : BitVec 16) (block : Bool)
  | pageLock (ctx : Ctx) (page : HpAddr) (value : Word)
  | acquire (ctx : Ctx) (base : LAddr) (sizeLog2 : BitVec 6) (lease : BitVec 10)
  | renew (ctx : Ctx) (slot : BitVec 6) (lease : BitVec 10)
  | release (ctx : Ctx) (slot : BitVec 6)
  | breakHold (ctx : Ctx) (slot : BitVec 6)
  | imgCmd (ctx : Ctx) (channels : BitVec 16)
  | imgAbort (ctx : Ctx)
  | imgData (ctx : Ctx) (beat : Word)
  | imgDigest (ctx : Ctx) (k : Fin 6) (value : Word)
  | arbPrio (ctx : Ctx) (c : Ch) (levels : BitVec 27)
  | disable (ctx : Ctx) (c : Ch)
  | enable (ctx : Ctx) (c : Ch)
  | clean (ctx : Ctx) (c : Ch) (base : LAddr) (sizeLog2 : BitVec 6) (all : Bool)
  | invalidate (ctx : Ctx) (c : Ch) (base : LAddr) (sizeLog2 : BitVec 6) (all : Bool)
  | cleanInvalidate (ctx : Ctx) (c : Ch) (base : LAddr) (sizeLog2 : BitVec 6) (all : Bool)
  | tgSwap (ctx : Ctx) (c : Ch) (bank : Bool) (groupSync : Bool)
  | tgLock (ctx : Ctx) (c : Ch) (bits : BitVec 32)
  | retireSlot (ctx : Ctx) (c : Ch) (t : TileId) (set : BitVec 11) (way : BitVec 4)
  | retireSet (ctx : Ctx) (c : Ch) (t : TileId) (set : BitVec 11)
  | retirePage (ctx : Ctx) (c : Ch) (page : BitVec 40)
  | fence (ctx : Ctx) (c : Ch)
  | queueFlush (ctx : Ctx) (c : Ch) (q : Fin 256) (prios : BitVec 4)
  | qPop (ctx : Ctx) (c : Ch) (q : Fin 256)
  | jrnWindowRead (ctx : Ctx) (slot : Fin 8) (word : Fin 4)
  | jrnCur (ctx : Ctx) (k : Fin 16) (value : Word)
  | create (ctx : Ctx) (inst : InstId) (group : BitVec 5) (sync : Bool)
  | quiesce (ctx : Ctx) (inst : InstId)
  | resume (ctx : Ctx) (inst : InstId) (group : BitVec 5) (sync : Bool)
  | flush (ctx : Ctx) (inst : InstId) (sizeLog2 : BitVec 6) (base : LAddr)
  | freeze (ctx : Ctx) (inst : InstId)
  | thaw (ctx : Ctx) (inst : InstId) (group : BitVec 5) (sync : Bool)
  | save (ctx : Ctx) (inst : InstId)
  | restore (ctx : Ctx) (inst : InstId)
  | instanceReset (ctx : Ctx) (inst : InstId)
  | remove (ctx : Ctx) (inst : InstId)
  | declareDead (ctx : Ctx) (agent : AgentId)
  | admitAgent (ctx : Ctx) (agent : AgentId)
  | drain (ctx : Ctx) (c : Ch)
  | up (ctx : Ctx) (c : Ch)
  | gate (ctx : Ctx) (c : Ch)
  | off (ctx : Ctx) (c : Ch)
  | bankGate (ctx : Ctx) (c : Ch) (t : TileId)
  | bankUp (ctx : Ctx) (c : Ch) (t : TileId)
  | chRst (ctx : Ctx) (c : Ch)
  | enter (ctx : Ctx) (c : Ch) (t : TileId) (b : Bank)
  | exit (ctx : Ctx) (c : Ch) (t : TileId) (b : Bank)
  | dgRd (ctx : Ctx) (c : Ch)
  | dgWr (ctx : Ctx) (c : Ch)
  | read (ctx : Ctx) (c : Ch)
  | write (ctx : Ctx) (c : Ch)
  -- invalid opcodes and ends of commands
  | irqInvalidOpcode (c : Ch) (r : ReqIn) (opcode : BitVec 6)
  | inboundInvalidOpcode (c : Ch) (p : InPort) (r : RspIn) (opcode : BitVec 6)
  | bankPowerUpDone (c : Ch) (t : TileId)
  | arbLevelsInForce (c : Ch)
  | strobeDistributed
  | deniedRead (ctx : Ctx) (addr : HpAddr)
  deriving DecidableEq, Repr

end Sys2Proof
end

