-- ==== Sys2Proof/WellFormed.lean ====
section
/-! DEFINITION. Which commands are well formed: the operands a `Fin` or a bit vector does not bound by itself. -/

namespace Sys2Proof

/-- The request opcodes valid on IRQ (Table 3-3). -/
def irqOpcode (o : BitVec 6) : Bool := 0x01 ≤ o.toNat && o.toNat ≤ 0x0C

/-- The opcodes valid on an answer port (Table 3-3). -/
def inboundOpcode (p : InPort) (o : BitVec 6) : Bool :=
  match p with
  | .sni => 0x28 ≤ o.toNat && o.toNat ≤ 0x2C
  | .din => o == 0x30 || o == 0x31
  | .mrs => 0x3D ≤ o.toNat

/-- A command is well formed. -/
def Instr.wf : Instr → Bool
  | .barometerTick _ r => r.length == 16 && r.all fun x => x.length == 17
  | .flitHop _ _ bad => bad.all fun p => decide (p < 16)
  | .resend _ _ stop => decide (stop < 5)
  | .injectionClaim _ _ stop => decide (stop < 5)
  | .trackerEntryRelease _ _ n => decide (n < 160)
  | .shadowRebuild _ _ ctx x => if ctx then decide (x.row < 320) else decide (x.row < 80)
  | .broadcastInvalidation _ _ ext row => if ext then decide (row < 256) else decide (row < 8192)
  | .irqInvalidOpcode _ _ o => !irqOpcode o
  | .inboundInvalidOpcode _ p _ o => !inboundOpcode p o
  | .rdShd .. | .rdOwn .. | .rdAny .. | .rdCur .. | .rdSpec .. | .upgrade .. | .invAll .. | .wrFull .. | .wrPtl ..
  | .atomic .. | .evict .. | .biConflict .. | .rspI .. | .rspS .. | .rspE .. | .rspID .. | .rspSD .. | .wdata ..
  | .sdata .. | .memFill .. | .memRmw .. | .memAtomRes .. | .egressCrossing .. | .egressStall ..
  | .engineDispatch .. | .bankPortGrant .. | .move .. | .dirRd .. | .dirWr .. | .lcAcc .. | .snoop .. | .memreq ..
  | .send .. | .wait .. | .branch .. | .tracker .. | .endFlow .. | .illegalMicroword .. | .anchorLapse ..
  | .engineHoldCutoff .. | .bankHoldCutoff .. | .starvationOnset .. | .wdataTimeout .. | .snoopTimeout ..
  | .memTimeout .. | .mrsReservationEnd .. | .slotFrameStart .. | .pclkWindowEnd .. | .aliveToggle ..
  | .adAliveTransition .. | .mcAliveTransition .. | .adapterLost .. | .mcLost .. | .coldResetAssert ..
  | .coldResetRelease .. | .warmResetAssert .. | .warmResetRelease .. | .gaugeLeak .. | .wayCountDecay ..
  | .scrubStep .. | .engineWatchdog .. | .engineFailover .. | .stewardRollback .. | .recoveryWatchdog ..
  | .ringRetirement .. | .reclaimStep .. | .maintStep .. | .quietPoint .. | .snapshotEdge ..
  | .gateNoticeWindowEnd .. | .gateSwapDone .. | .holdLapse .. | .holdGranted .. | .rawHoldLapse ..
  | .queueMoveEnd .. | .queueFlushBoundary .. | .instanceQuiesced .. | .drainQuiesced .. | .drainLimitPassed ..
  | .channelClamp .. | .ddSettleElapsed .. | .channelPowerUp .. | .channelResetDone .. | .poolAccessReissue ..
  | .registerWrite .. | .updCmd .. | .snapCmd .. | .pageLock .. | .acquire .. | .renew .. | .release ..
  | .breakHold .. | .imgCmd .. | .imgAbort .. | .imgData .. | .imgDigest .. | .arbPrio .. | .disable ..
  | .enable .. | .clean .. | .invalidate .. | .cleanInvalidate .. | .tgSwap .. | .tgLock .. | .retireSlot ..
  | .retireSet .. | .retirePage .. | .fence .. | .queueFlush .. | .qPop .. | .jrnWindowRead .. | .jrnCur ..
  | .create .. | .quiesce .. | .resume .. | .flush .. | .freeze .. | .thaw .. | .save .. | .restore ..
  | .instanceReset .. | .remove .. | .declareDead .. | .admitAgent .. | .drain .. | .up .. | .gate .. | .off ..
  | .bankGate .. | .bankUp .. | .chRst .. | .enter .. | .exit .. | .dgRd .. | .dgWr .. | .read .. | .write ..
  | .bankPowerUpDone .. | .arbLevelsInForce .. | .strobeDistributed .. | .deniedRead .. => true

end Sys2Proof
end

