-- ==== Sys2Proof/Config.lean ====
section
/-! DEFINITION. The values the spec leaves open: opaque, so that nothing in Lean can see them. -/

namespace Sys2Proof.Config

/-- The 8 check bits of the (72,64) Hsiao code of queue and journal words. R311 names the code; no file of the spec
gives its matrix, so the value is free (assumption 6). -/
opaque hsiaoCheck : Word → BitVec 8

/-- Whether a SEC-DED word with three or more bad bits is delivered as poisoned, and the value delivered: R311 says what
one and two bad bits do and nothing of more (assumption 6). The arguments are the stored data and check field. -/
opaque wordManyBad : Word → BitVec 8 → Bool
/-- See wordManyBad. -/
opaque wordManyValue : Word → BitVec 8 → Word

/-- BLOCK of the recovery-done record of an extension-word block: Table 15-2 gives the field three bits, and R307 numbers
only the four slot blocks of a set (assumption 10). -/
opaque extensionBlock : BitVec 3

/-- Bytes 96 to 127 of a flow context as the diagnostic window shows them: Table 8-3 names what they hold and gives no
bit places (assumption 7). The arguments are the resume address, the set-sequence stamp and the entry's index. -/
opaque contextTail : Nat → Nat → Nat → BitVec 256

/-- The agent that a pool access runs as: R474 says "a non-caching agent" and names none, so the AGENT its tracker entry and
records show, and the locale its forwarding cost is read for, are free (assumption 12). -/
opaque poolAgent : AgentId

/-- What a status field shows of a number that does not fit it: MIN_SUM of IT_ST has 12 bits and its sum may need more, REMAIN of
DBG_HOLD_c has 24 and a lease may need 26; the spec says of neither what it reads then (assumption 14). The arguments are the
field's width and the number. -/
opaque tooWide : Nat → Nat → Nat

end Sys2Proof.Config
end

