-- ==== Sys2Proof/Machine/State.lean ====
section
/-! DEFINITION. The state of the SH-1640 as plain data: the block-level state and sixteen channels (R9), each with
sixteen tiles (R10) and eight rings (R265). "Tick" is a REFCLK tick (R6), "edge" a PCLK edge (R5); both are counted from
the release of cold reset. A `Tab` is a list of (key, value) pairs with rising keys; what an unlisted key stands for is
said at each field. -/

namespace Sys2Proof.Machine

/-- The twelve request opcodes of Table 3-3. -/
inductive ReqOp
  | rdShd | rdOwn | rdAny | rdCur | rdSpec | upgrade | invAll | wrFull | wrPtl | atomic | evict | biConflict
  deriving DecidableEq, Repr

/-- The snoop opcodes of Table 3-3; SNP_FWD carries the state the forwarder keeps (R78). -/
inductive SnpOp | inv | data | cur | fwd (keepF : Bool) | fwdInv
  deriving DecidableEq, Repr

/-- The snoop answers of Table 3-3. -/
inductive Ans | i | s | e | iD | sD
  deriving DecidableEq, Repr

/-- A home packet header (Table 3-1, R68). -/
structure Header where
  opcode : BitVec 6
  agent : AgentId
  tag : Tag
  laddr : LAddr
  inst : InstId
  poison : Bool
  anchor : Bool
  prio : BitVec 2
  hold : Bool
  subtype : BitVec 7
  deriving DecidableEq, Repr

/-- What an egress packet is to the share limit of R204 and the precedence of R337. -/
inductive SnpKind | flow | storm | recovery
  deriving DecidableEq, Repr

/-- A packet in an egress gasket (R36). `due` is its due edge; `lane` is 0 or 1 for a clear-sky packet of that port and 2
for a flow's (R35); `req` is the open request it answers; `ent` is the tracker entry (tile, index) that waits for it to
cross (R246, R248). -/
structure EgrPkt where
  hdr : Header
  data : Line
  mask : Word
  due : Nat
  lane : Nat
  kind : SnpKind
  req : Option Nat
  ent : Option (Nat × Nat)
  deriving DecidableEq, Repr

/-- What the WDATA of an accepted write or atomic is for (R87 to R89, R107, R185). Tile and index name a tracker entry. -/
inductive WUse
  | drop
  | clearSky (t : Nat) (n : Nat)
  | flow (t : Nat) (n : Nat)
  | absorbed (t : Nat) (n : Nat)
  deriving DecidableEq, Repr

/-- An accepted write or atomic whose WDATA has not been sunk (R87): its place in the port's DIN reserve (R467).
`arrived` is set once the packet has crossed DIN; `data` is what has reached the landing place of a write whose entry does
not take it yet; `half` is the flit of a WR_PTL that is in, of the two (R268): its PAIR and payload. -/
structure WExp where
  rid : Nat
  port : Port
  op : ReqOp
  agent : AgentId
  tag : Tag
  laddr : LAddr
  inst : InstId
  since : Nat
  use : WUse
  arrived : Bool
  data : Option (Line × Word × Bool)
  half : Option (BitVec 2 × Line)
  deriving DecidableEq, Repr

/-- An open request line (R79, R80): what it still waits for before it closes (its verdict, its RDATA, the arrival of its WDATA,
the placement of that data), the epoch of its gate check (R301), its acceptance edge (R433), and its place in its line's order
(R177, R182), which for an absorbed write is just before the flow that absorbs it (R185). Host-port accesses are requests
of `port` none; a request the gate does not check is kept with the opcode BI_CONFLICT. -/
structure OpenReq where
  rid : Nat
  port : Option Port
  op : ReqOp
  agent : AgentId
  tag : Tag
  laddr : LAddr
  inst : InstId
  epoch : BitVec 8
  edge : Nat
  awaitV : Bool
  awaitD : Bool
  awaitW : Bool
  awaitP : Bool
  answered : Bool
  place : Nat
  deriving DecidableEq, Repr

/-- A snoop of a flow (R156, R181): the agent, the line, the opcode, how often it was sent (R145), whether it is
unanswered, and the answer taken. `sentAt` is the tick its timer started (R281); `dataDue` is set while its SDATA is
due, `sdata` holds SDATA that waits for a write of the agent that the flow has absorbed (R154); `wasOwner` when the directory state
found records the agent as owner, `wrote` when a write of the agent for the line has been absorbed (R341), `asDead` when the agent
has been settled as dead for the line (R155, R341). -/
structure Snp where
  agent : AgentId
  laddr : LAddr
  op : SnpOp
  tries : Nat
  out : Bool
  crossed : Bool
  sentAt : Nat
  ans : Option Ans
  dataDue : Bool
  sdata : Option (Line × Bool)
  wasOwner : Bool
  wrote : Bool
  asDead : Bool
  deriving DecidableEq, Repr

/-- The holders of a line in state S (Tables 5-1, 5-2, R126). -/
inductive Sharers
  | ptrs (l : List AgentId)
  | coarse (g : BitVec 64)
  | wide (v : BitVec 256)
  deriving DecidableEq, Repr

/-- The directory state of a line as one lookup finds it (R128). -/
inductive Dir
  | i
  | s (sh : Sharers) (fwd : Option AgentId)
  | x (owner : AgentId)
  | region (owner : AgentId)
  deriving DecidableEq, Repr

/-- The data source a flow plans (R165). -/
inductive Source | memoryDd | lineCache | forwarder | memory
  deriving DecidableEq, Repr

/-- A run-ahead plan (R187) with the key it was made under (R189): predicted state, tag hit with DIRTY, and what follows. -/
structure Plan where
  before : Dir
  hit : Option Bool
  source : Source
  snoops : List (AgentId × SnpOp)
  grant : BitVec 3
  after : Dir
  deriving DecidableEq, Repr

/-- The kinds of tracker entry (Table 8-1). -/
inductive EKind | request | anchored | clearSky | evict | background
  deriving DecidableEq, Repr

/-- What an entry works for besides a request's flow: a clear-sky write that took a bound reserve entry (R107, R194), or what a
background or eviction entry does (R208, R248, R320, R337, R342, R406, R423). -/
inductive Work
  | none
  | clearSky
  | victim
  | eviction
  | recovery
  | maint (job : Nat)
  | reclaim
  deriving DecidableEq, Repr

/-- What a flow's memory request is (R281, Table 10-4). -/
inductive MemKind | rd | wrPtl | atom
  deriving DecidableEq, Repr

/-- What a flow keeps of the costs and policies in force when it starts (R164, R165, R167, R359): the line cache is no dearer than
memory, F is granted where no forwarder stands, F is granted where the forwarder has supplied the data, DIRTY_XFER. -/
structure Terms where
  lcLow : Bool
  fAlone : Bool
  fMoved : Bool
  xfer : Bool
  deriving DecidableEq, Repr

/-- A tracker entry in use with its flow context (Tables 8-1 and 8-3): the request's fields, its place in the line's order
(`rid`), its seat in the chain, which NEXT gives (its order number but for a raw write of NEXT, R322), and the progress of its
flow. `fromEvict` says that a recovery took it from the eviction reserve (R210), `starved` holds the `readyAt` for which its
starvation has been recorded (R238). `watch` counts the ticks that the flow has spent on its engine with the inputs of its next
microstep present since it last committed (R332). `toPlace` are lines received and still to be placed, `absPtl` absorbed partial
writes still to be merged (R171), each with the instance of the request it came with (R70), `xfer` a dirty transfer (R164),
`absorbedBy` the entry whose flow absorbed this write (R185), `owes` the order numbers of absorbed writes whose data is not
placed (R301), `readAt` the microword of its last directory read (R224), `region` that it holds all 64 lines of its region
(R142), `memIn` that the answer of the memory request has crossed MRS, `merging` a merge buffer held (R315), `pend` the MEM_WR
packets that have still to cross (R246). -/
structure Entry where
  kind : EKind
  work : Work
  fromEvict : Bool
  rid : Nat
  seat : Nat
  port : Option Port
  op : Option ReqOp
  laddr : LAddr
  agent : AgentId
  tag : Tag
  subtype : BitVec 7
  inst : InstId
  prio : BitVec 2
  age : BitVec 32
  deadline : BitVec 21
  head : Bool
  ddIssued : Bool
  dataRcvd : Bool
  -- running
  arrived : Bool
  started : Bool
  resume : BitVec 13
  progress : BitVec 16
  cutoffs : BitVec 2
  oddRan : Bool
  runLen : Nat
  waiting : Bool
  readyAt : Nat
  watch : Nat
  starved : Option Nat
  reg0 : Word
  reg1 : Word
  reg2 : Word
  reg3 : Word
  fetched : Bool
  -- what the flow found and plans
  found : Dir
  stamp : Nat
  readAt : Option (BitVec 13)
  terms : Terms
  region : Bool
  demote : Bool
  snoops : List Snp
  source : Source
  plan : Option Plan
  atMemory : Bool
  -- data
  rdata : Option (Line × Bool)
  rsrc : BitVec 2
  toPlace : List (LAddr × Line × Bool × InstId)
  absPtl : List (LAddr × Line × Word × Bool × InstId)
  xfer : Bool
  absorbedBy : Option Nat
  owes : List Nat
  operand : Option (Line × Word × Bool)
  opMissing : Bool
  value : Option (Line × Bool)
  mem : Option (MemKind × Nat)
  memIn : Bool
  memAns : Option (Line × Bool)
  placed : Bool
  merging : Bool
  -- ends
  updated : Bool
  grant : BitVec 3
  verdict : Bool
  sentData : Bool
  aborted : Bool
  ended : Bool
  pend : Nat
  deriving DecidableEq, Repr

/-- A non-tracker slot in use (R81): a prefetch (R251), or a clear-sky MEM_RD (R113) with the request it serves; `landed` once
its answer has crossed MRS. -/
structure NSlot where
  laddr : LAddr
  prefetch : Bool
  rid : Nat
  agent : AgentId
  tag : Tag
  inst : InstId
  grant : BitVec 3
  since : Nat
  landed : Bool
  deriving DecidableEq, Repr

/-- The miss slot of a line-cache bank (R249): the frame reserved with FILL, and whether the fill may still be installed. -/
structure Miss where
  laddr : LAddr
  way : Nat
  prefetch : Bool
  good : Bool
  tag : Tag
  deriving DecidableEq, Repr

/-- A requester at a bank's arbitrated port (Table 8-9): the flow of an entry, the tile's scrubber, the rewrite of a block that
a lookup has corrected (array, row, R309), the early set fetch of a request (its order number), the reclaim walk of the tile,
the rewrite of a block by a broadcast-invalidation recovery, a step of a maintenance job there. -/
inductive BankWho
  | flow (n : Nat)
  | scrub
  | mend (arr row : Nat)
  | fetch (rid : Nat)
  | reclaim
  | recovery
  | step (job : Nat)
  deriving DecidableEq, Repr

/-- A grant of a bank's arbitrated port (R232): the tracker entry whose flow holds it, the set of its accesses once it has made
one, and how many it has made. A background step holds one too until it is taken: 160 stands for the reclaim walk's, 161 for a
recovery's, 162 + j for that of maintenance job j. -/
structure Grant where
  ent : Nat
  set : Option Nat
  used : Nat
  deriving DecidableEq, Repr

/-- A request at a bank's arbitrated port (R231, R232): its class and age stamp, the tick and deadline it was raised with, and
whether it has been recorded as starving (R238). -/
structure BankReq where
  who : BankWho
  cls : Nat
  age : BitVec 32
  since : Nat
  deadline : BitVec 21
  starved : Bool
  deriving DecidableEq, Repr

/-- A request waiting in a handoff buffer of an ingress port for a tracker entry (Table 2-2, R109, R210); a pool access
that waits for one has no port (R474). `lost` is set when its data has not come in time (R88). -/
structure Waiter where
  port : Option Port
  req : ReqIn
  op : ReqOp
  line : LAddr
  inst : InstId
  age : BitVec 32
  rid : Nat
  tile : Nat
  dd : Bool
  lost : Bool
  deriving DecidableEq, Repr

/-- An anchor that is not FREE (R191). `bound` holds the tile and the tick its binding began; `inst` is the instance it
counts for (R195). -/
structure Anchor where
  line : LAddr
  inst : InstId
  tile : Nat
  bound : Option Nat
  deriving DecidableEq, Repr

/-- A tracker or context row as a raw write left it (R317, R322): its words, how the stored check bits differ from those of its
words, the planted mark, and what the entries gave the row then. -/
structure Over where
  words : List Word
  row : BitVec 8
  col : Word
  planted : Bool
  base : List Word
  deriving DecidableEq, Repr

/-- One tile: its tracker, engines, banks and the bank-side state of the snoop filter and the line cache. -/
structure Tile where
  /-- Tracker entries in use, by index 0-159 (R207); unlisted: free. -/
  ents : Tab Entry
  /-- Generation counts of entries and slots 0-255 (R208, R81); unlisted: 0. -/
  gens : Tab (BitVec 4)
  /-- Non-tracker slots 160-255 in use (R81). -/
  slots : Tab NSlot
  /-- The slot taken last (R81). -/
  lastSlot : Nat
  /-- The flow each engine runs (R217): even engine, odd engine. -/
  run0 : Option Nat
  run1 : Option Nat
  /-- EN_ST.FAILED of the two engines (R334). -/
  fail0 : Bool
  fail1 : Bool
  /-- The engines whose fault waits for failover (R334). -/
  fault0 : Bool
  fault1 : Bool
  /-- Grants and requests of the two bank ports (R232): snoop filter, line cache. -/
  sfGrant : Option Grant
  lcGrant : Option Grant
  sfReqs : List BankReq
  lcReqs : List BankReq
  /-- The background steps that wait for a general entry, oldest first, and whether a freed one has gone to the step (R210,
  R212). -/
  bgWaits : List (Work × LAddr × Bool)
  /-- Update count of each snoop filter set (R224); unlisted: 0. -/
  seqs : Tab Nat
  /-- Victim cursor (R141). -/
  cursor : BitVec 4
  /-- Demotion list, oldest first (R136). -/
  demoted : List (BitVec 40)
  /-- Anchor wait list, head first (R191). -/
  waits : List AgentId
  /-- Replacement LFSR (R247). -/
  lfsr : BitVec 16
  /-- Miss slot (R249). -/
  miss : Option Miss
  /-- Failure counts and LC_WAYFAIL bits of the ways (R256); unlisted: 0. -/
  fails : Tab Nat
  wayFail : BitVec 16
  /-- The tick from which a way's decay interval runs (R256); unlisted: 0. -/
  decayAt : Tab Nat
  /-- Every way of the line-cache bank is disabled and drained (R257). -/
  dark : Bool
  /-- The bank is gated (R427), is powering up. -/
  gated : Bool
  powering : Bool
  /-- Position of the tile's scrubber in its cycle, and the tick of its last step (R319). -/
  scrubPos : Nat
  scrubAt : Nat
  /-- Tracker and context rows written raw (R322), by row key; unlisted: none. -/
  overlay : Tab Over
  /-- The blocks whose broadcast-invalidation recovery has begun and not ended (R337): extension words or not, row, and whether the
  row was planted (R388). -/
  biRows : List (Bool × Nat × Bool)
  /-- The rows of the stewards' shadow store that do not read (R333): contexts or tracker, row. The words of the others are those
  that the entries give the rows, as of their last commit. -/
  shadowBad : List (Bool × Nat)
  deriving DecidableEq, Repr

/-- Flit classes (Table 10-3). -/
inductive FClass | req | rsp | out | rcv
  deriving DecidableEq, Repr

/-- Whose packet a flit is: the handoff of an entry, an inbound packet with the place it was matched to, an egress packet with what
its gasket needs to know of it (its line and mask are in the payloads), or steward traffic. -/
inductive Body
  | handoff (n : Nat)
  | inbound (rid : Nat)
  | egress (p : EgrPort) (pkt : EgrPkt)
  | steward
  deriving DecidableEq, Repr

/-- A flit (R266): its route word (Table 10-2), header, payload and CRC. `turned` says that it has met its turning stop (R271),
`born` is the ring step from which it counts as waiting at the head of its queue (R272). -/
structure Flit where
  dest : Nat
  src : Nat
  cls : FClass
  laps : Nat
  pair : BitVec 2
  hopseq : BitVec 4
  hdr : Header
  payload : Line
  crc : BitVec 32
  body : Body
  turned : Bool
  born : Nat
  deriving DecidableEq, Repr

/-- A slot of a ring (R275): its tag, the position whose stop claims it (R272), its flit. -/
structure Slot where
  tag : BitVec 2
  claim : Option Nat
  flit : Option Flit
  deriving DecidableEq, Repr

/-- The part of a ring stop that serves one ring: injection queues (R276), turn register (R271), flits sent and not yet
acknowledged (R279, oldest first, with the steps since they left), the flits due for re-send, the count of
consecutive failures of the first of them and the broken hop they make (R280), whether the stop drops what its upstream neighbor
sends until the re-sent flit arrives, and whether it holds a claim. -/
structure Stop where
  rcv : List Flit
  rsp : List Flit
  out : List Flit
  req : List Flit
  turn : Option Flit
  sent : List (Flit × Nat)
  again : List Flit
  fails : Nat
  broken : Bool
  dropping : Bool
  nextSeq : BitVec 4
  claim : Bool
  deriving DecidableEq, Repr

/-- A ring (R265): its 16 slots by position, its 5 stops in order of position (0, 4, 7, 10, 13), the steps since slot 0
last passed the edge stop, retirement (R335), and the step at whose quiet point a slot table came to await its frame (R278). -/
structure Ring where
  slots : Vector Slot 16
  stops : Vector Stop 5
  phase : Nat
  step : Nat
  table : BitVec 32
  retired : Bool
  pend : Option Nat
  deriving DecidableEq, Repr

/-- One sub-buffer of a notification queue (R378). -/
structure SubBuf where
  rd : Nat
  wr : Nat
  deriving DecidableEq, Repr

/-- A notification queue (R377 to R385): sub-buffers, MOVING, hold words, the open flush (journal sequence and PRIOS), and
an instance RESET or REMOVE waiting for the end of the move (R410). -/
structure Queue where
  sub : Vector SubBuf 4
  moving : Bool
  hold1 : Word
  hold2 : Word
  hold3 : Word
  flush : Option (Nat × BitVec 4)
  emptyAfter : Bool
  deriving DecidableEq, Repr

/-- Per-row state of an array row whose valid bit is 1 (R307, R311, R317, R322): how the stored check bits differ from the
check bits of its content (`row`: R_0-R_7 of a code block, or for a queue row the three mode bits of each word;
`col`: C_0-C_63), and the planted mark. -/
structure Row where
  row : BitVec 24
  col : Word
  planted : Bool
  deriving DecidableEq, Repr

/-- What a maintenance job does (R253, R257, R260, R262, R323, R406, R423). -/
inductive JobKind
  | range (op : BitVec 2) (all : Bool) (base : LAddr) (size : Nat)
  | lcDrain
  | wayDrain (t : Nat) (w : Nat)
  | bankDrain (t : Nat)
  | retireSlot (t : Nat) (set : Nat) (way : Nat)
  | retireSet (t : Nat) (set : Nat)
  | retirePage (page : BitVec 40)
  | flush (inst : InstId) (base : LAddr) (size : Nat)
  | vacateDir
  | vacateLc
  deriving DecidableEq, Repr

/-- The progress of a job in one tile (R254): the next position, the line it holds with the order number from which
requests count as accepted after the selection, and the step's phase: 0 held and waiting for older entries, 1 snooping
in a background entry, 2 waiting for a MEM_WR to cross; `fin` when the tile has been walked. -/
structure JobTile where
  pos : Nat
  line : Option (LAddr × Nat)
  phase : Nat
  ent : Option Nat
  fin : Bool
  deriving DecidableEq, Repr

/-- A maintenance job of a channel with its journal sequence number and counts (R253); `since` is the order number that the next
request of the channel took when it began. -/
structure Job where
  id : Nat
  since : Nat
  kind : JobKind
  seq : Nat
  ctx : Ctx
  tiles : Vector JobTile 16
  written : Nat
  discarded : Nat
  deriving DecidableEq, Repr

/-- A reclaim walk of one agent in a channel (R342): the sets each tile still has to visit, the lines poisoned, and the
open poisoned range of each tile (R343: first line, count). -/
structure Walk where
  agent : AgentId
  left : Vector Nat 16
  lines : Nat
  ranges : Tab (LAddr × Nat)
  deriving DecidableEq, Repr

/-- A counter sample that is owed (R436): counter, event, how many requests may still come before it is written without one, the
instant of the wrap, and word 2 once it is known. -/
structure Sample where
  counter : Nat
  event : Nat
  left : Nat
  wrapAt : Nat
  subj : Option Word
  deriving DecidableEq, Repr

/-- What counting keeps between occurrences: the samples owed in the order they are written, by instant and counter (R436), the
latest instant on which a counter wrapped, and the counters that did on it, which freeze nothing before the next one (R431,
R434). -/
structure Owed where
  samples : List Sample
  lastAt : Nat
  wrapped : List Nat
  deriving DecidableEq, Repr

/-- Channel line-cache state (Table 9-4). -/
inductive LcState | on | draining | off
  deriving DecidableEq, Repr

/-- Channel power states (Table 17-2). -/
inductive Pwr | on | draining | quiesced | gated | off | reset
  deriving DecidableEq, Repr

/-- Liveness of an agent (Table 20-4). -/
inductive Life | live | reclaiming | dead
  deriving DecidableEq, Repr

/-- Instance states (Table 16-1). -/
inductive IState | free | active | quiescing | quiesced | frozen
  deriving DecidableEq, Repr

/-- Fence causes (Table 13-3). -/
inductive FenceCause
  | none | command | mcLost | flowStore | lcTags | tracker | engines | steward | watchdog | ring | secondFault
  deriving DecidableEq, Repr

/-- A configuration change that waits for this channel's quiet point (R359, R355, R300, R303, R398, R401, R411, R454, R459).
`strobe` carries the groups; `lock` a page; `state` an instance and its new state with the command's sequence number
and what it is; `admission` an agent; `raw` a bank held or released. -/
inductive Pending
  | strobe (seq : Nat)
  | lock (page : Nat) (seq : Nat)
  | swap (bank : Bool) (seq : Nat)
  | regionLock (bits : BitVec 32) (seq : Nat)
  | inst (i : InstId) (st : IState) (seq : Nat)
  | admission (a : AgentId) (seq : Nat)
  | rawHold (t : Nat) (b : Bank) (seq : Nat)
  | rawEnd (t : Nat) (b : Bank) (seq : Nat)
  | resume
  deriving DecidableEq, Repr

/-- A recovery action of the stewards (R327 to R337). -/
inductive Action
  | failover (t : Nat) (odd : Bool)
  | rebuild (t : Nat) (ctx : Bool) (row : Nat)
  | ringRetire (r : Nat)
  | broadcast (t : Nat) (ext : Bool) (row : Nat)
  deriving DecidableEq, Repr

/-- Where a new state of a line goes (R105 row growth, R127, R130, R135): which entry is written or allocated. -/
inductive Place
  | inPlace
  | grow
  | stratus (way : Nat)
  | cirrus (way : Nat)
  | full
  deriving DecidableEq, Repr

/-- A clear-sky directory update whose verdict edge has not come (R101, R105, R180): its line, that edge, the state to write and
where, and the requester with its instance. -/
structure Landing where
  line : LAddr
  edge : Nat
  after : Dir
  place : Place
  agent : AgentId
  inst : InstId
  deriving DecidableEq, Repr

/-- One channel: a complete home agent (R9). -/
structure Channel where
  -- power, fence, liveness
  pwr : Pwr
  fence : Bool
  cause : FenceCause
  alive : Bool
  aliveTick : Nat
  drainTick : Nat
  vacate : Nat
  limit : Bool
  startup : Bool
  upWait : Bool
  /-- The reset in progress ends in ON (R416). -/
  resumeOn : Bool
  -- ingress
  age : BitVec 32
  nextRid : Nat
  hoff : List Waiter
  /-- The port's stretch (R38), and one more than the edge of its last acceptance (0: none). -/
  strA : Bool
  strB : Bool
  lastA : Nat
  lastB : Nat
  /-- One more than the edge on which a pool access last took its age stamp (R474; 0: none). -/
  lastPa : Nat
  decEdge : Nat
  landings : List Landing
  pause : Nat
  openReqs : List OpenReq
  wexp : List WExp
  biAcks : List (Nat × AgentId × Tag × LAddr × InstId)
  -- anchors, MRS
  anchors : Tab Anchor
  mrsHeld : List (Tag × Nat)
  -- egress
  vrs : List EgrPkt
  dout : List EgrPkt
  sno : List EgrPkt
  mrq : List EgrPkt
  /-- An ingress ready was low as the latest edge came (R28). -/
  wasLowA : Bool
  wasLowB : Bool
  /-- A hop of a ring has been broken since the channel's last reset (RING_ST.BROKEN, Table 10-8). -/
  broken : BitVec 8
  /-- Packets that are presented on the latest edge and have not crossed (R27, R28): port, lane, packet. -/
  shown : List (EgrPort × Nat × EgrPkt)
  /-- One more than the edge of the last crossing of a port (R26), 0 for none: the egress ports, and the answer ports. -/
  lastVrs : Nat
  lastDout : Nat
  lastSno : Nat
  lastMrq : Nat
  lastSni : Nat
  lastDin : Nat
  lastMrs : Nat
  /-- Two-flit MRQ packets of which one flit has arrived (R268): header, PAIR and payload. -/
  halves : List (Header × BitVec 2 × Line)
  stallVrs : Bool
  stallDout : Bool
  stallSno : Bool
  sno16 : List Bool
  lastDd : Nat
  settled : Bool
  -- pace
  loops : List (BitVec 12)
  minNow : BitVec 12
  thresh : BitVec 12
  mhz : BitVec 12
  pclkValid : Bool
  decision : Bool
  causeBaro : Bool
  setByBaro : Bool
  good : Nat
  winCount : Nat
  winStart : Nat
  winLast : Option Nat
  winGood : Nat
  -- tiles, rings, arrays
  tiles : Vector Tile 16
  rings : Vector Ring 8
  /-- The RCV buffers of the stops (R269), by 24 × receiving stop + source stop: places reserved, and flits received. -/
  rcvRes : Tab Nat
  rcvBuf : Tab (List Flit)
  mem : Tab Word
  rows : Tab Row
  qBad : Tab (Word × BitVec 8)
  -- line cache and maintenance
  lc : LcState
  invDone : Bool
  lcRun : Option Nat
  lcHeld : Option (Bool × Nat)
  jobs : List Job
  nextJob : Nat
  -- arbiters
  levels : BitVec 27
  newLevels : Option (BitVec 27 × Nat)
  starveE : BitVec 9
  starveT : BitVec 16
  -- gate
  tgActive : Bool
  epoch : BitVec 8
  swapOpen : Option (Bool × Bool × Nat × Bool)
  notice : Option (Nat × Word × Nat × BitVec 8 × InstId)
  -- integrity
  /-- LEVEL of the rain gauges, and the tick from which each one's leak interval runs (R321). -/
  gauges : Vector Nat 7
  leakAt : Vector Nat 7
  setRet : List (Nat × Nat × Nat × Bool)
  pgRet : List (BitVec 40)
  /-- Position of the channel's scrubber, and the tick of its last step (R319). -/
  scrubQ : Nat
  scrubQAt : Nat
  -- recovery
  /-- The action the stewards run, the tick of their last checkpoint (R331), the two copies of their checkpoint store (R329), and
  how often the step in hand has disagreed (R330). -/
  action : Option Action
  ckptAt : Nat
  ckpt : Vector (Option Action) 2
  disagreed : Nat
  queueOf : List Action
  simplex : Bool
  stewardOff : Bool
  xret : BitVec 4
  yret : BitVec 4
  walks : List Walk
  walkPos : Vector Nat 16
  -- applied copies of the block-level tables
  copy : Tab Word
  life : Tab Life
  ist : Tab IState
  -- queues
  queues : Tab Queue
  -- quiet point work, counters
  pendq : List Pending
  missed : BitVec 32
  owed : Owed
  -- diagnostic window
  dgHold : Vector Word 8
  dgRow : BitVec 24
  dgCol : Word
  dgRes : BitVec 4
  /-- The open pool access (R474): journal sequence number, WRITE or not, its order number; and what the last one left. -/
  paBusy : Option (Nat × Bool × Nat)
  paData : Line
  paPoison : Bool
  paSrc : BitVec 2
  paErr : BitVec 6
  /-- The line, data and mask latched for the open access (R474). -/
  paW : LAddr × Line × Word
  paRetry : Option Nat
  deriving DecidableEq, Repr

/-- Journal states (Table 14-3). -/
inductive JState | accepted | pending | running | done | failed
  deriving DecidableEq, Repr

/-- A journal entry (Table 14-6). -/
structure JEntry where
  seq : Nat
  state : JState
  ctx : Ctx
  result : BitVec 8
  cmd : BitVec 12
  chan : Nat
  detail : BitVec 44
  arg : Word
  tAccept : Nat
  elapsed : Nat
  parity : Bool
  deriving DecidableEq, Repr

/-- A response of the host port: code (Table 2-5) and data. -/
structure Response where
  code : BitVec 2
  data : Word
  deriving DecidableEq, Repr

/-- The journal window of a context (R370): the latch with the slot it was loaded from. -/
structure Window where
  slot : Option Nat
  w1 : Word
  w2 : Word
  w3 : Word
  deriving DecidableEq, Repr

/-- The running update strobe (R358 to R361): the values it captured (address, value), and the channels still to apply. -/
structure Strobe where
  seq : Nat
  groups : BitVec 32
  values : List (Nat × Word)
  waiting : BitVec 16
  applied : BitVec 16
  skipped : BitVec 16
  running : Bool
  deriving DecidableEq, Repr

/-- A page lock being applied (R355): the page address and the channels that have still to apply it. -/
structure LockOp where
  seq : Nat
  page : Nat
  waiting : BitVec 16
  deriving DecidableEq, Repr

/-- A hold slot in use (R371). `lease` is the lease in ticks, `expiry` the tick it lapses on once granted. -/
structure Hold where
  base : LAddr
  size : Nat
  owner : Ctx
  granted : Bool
  lease : Nat
  expiry : Nat
  seq : Nat
  deriving DecidableEq, Repr

/-- The flow-image load that is RUNNING (R228): its channels, the bytes received (newest first), and its journal entry. -/
structure Load where
  seq : Nat
  channels : BitVec 16
  words : List Word
  count : Nat
  deriving DecidableEq, Repr

/-- An open instance command (R400): operation, target, journal entry, the channels still to act, whether it waits for a
strobe of a group, and the lines written by a FLUSH. -/
structure InstOp where
  seq : Nat
  op : BitVec 4
  inst : InstId
  ctx : Ctx
  waiting : BitVec 16
  sync : Option (BitVec 5)
  base : LAddr
  size : Nat
  lines : Nat
  flushed : Bool
  deriving DecidableEq, Repr

/-- An open agent command (R454). `died` is set for an ADMIT that every channel had applied when its agent died again: it ends
at the tick's edge, and the agent stays as that death left it. -/
structure AgentOp where
  seq : Nat
  admits : Bool
  agent : AgentId
  waiting : BitVec 16
  lines : Nat
  died : Bool
  deriving DecidableEq, Repr

/-- A power command of a channel (R419, R426). `ungate` is set for an UP that has begun from GATED or OFF, `waits` while it is held
behind another (R56, R425). -/
structure PwrOp where
  seq : Nat
  op : BitVec 4
  tile : Nat
  ungate : Bool
  waits : Bool
  deriving DecidableEq, Repr

/-- A raw-access hold of a channel (R459, R460). -/
structure RawHold where
  tile : Nat
  bank : Bank
  expiry : Nat
  deriving DecidableEq, Repr

/-- What ends at the REFCLK edge that ends the first tick on which its condition holds (R475): the swap of a channel (R302), the
QUIESCE of an instance (R405), the drain of a channel (R421). -/
inductive Ripe | swap (c : Ch) | quiesce (i : InstId) | drain (c : Ch)
  deriving DecidableEq, Repr

/-- The whole block. -/
structure State where
  /-- Commands waiting, first in first out (the row's cut). -/
  pending : List Instr
  /-- REFCLK ticks since the end of cold reset (R369). -/
  tick : Nat
  /-- What the edge of the latest tick has found to hold (R475). -/
  ripe : List Ripe
  /-- PCLK edges (R5). -/
  pclk : Nat
  /-- HA_COLD_N and HA_WARM_N (R48). -/
  coldN : Bool
  warmN : Bool
  /-- Levels of HA_AD_ALIVE and HA_MC_ALIVE (R44) and the ticks their grace timers run from (R65). -/
  adLevel : BitVec 128
  mcLevel : BitVec 16
  adSince : Tab Nat
  mcSince : Tab Nat
  adLost : BitVec 128
  mcLost : BitVec 16
  /-- Host-port responses sent and not yet taken, oldest first (R39 to R41): at most 8 (R40). -/
  rspQ : List Response
  /-- Applied and staged CF and LK values by address; unlisted: the reset value (R352). -/
  app : Tab Word
  stg : Tab Word
  /-- CT values and their held copies by address (R354, R363); unlisted: the reset value, and 0. -/
  ct : Tab Word
  held : Tab Word
  /-- WO registers written since cold reset (R356); unlisted: not written, reading 0. -/
  wo : Tab Word
  /-- Last accepted sequence number of each CM register (R364); unlisted: 0. -/
  cmSeq : Tab Nat
  /-- PG_SNAP of each page by page address (R350); unlisted: SEQ 0, VALID 0. -/
  snap : Tab Nat
  /-- Journal slots by s mod 65,536 (R368); unlisted: empty. `jrnBad` lists
  damaged words by slot*4+word: how the stored data and the stored check field differ from the word written (R311). -/
  jrn : Tab JEntry
  jrnBad : Tab (Word × BitVec 8)
  jrnNext : Nat
  /-- The commands that are open, each as accepted but for its state: they go on when the journal overwrites their entry (R368). -/
  jrnOpen : List JEntry
  windows : Tab Window
  jrnGauge : Nat
  jrnScrub : Nat
  /-- The ticks from which the journal gauge's leak interval and its scrubber's interval run (R319, R321). -/
  jrnLeakAt : Nat
  jrnScrubAt : Nat
  strobe : Option Strobe
  updApplied : BitVec 16
  updSkipped : BitVec 16
  snapOp : Option (Nat × BitVec 16 × Bool × Nat)
  snapTime : Nat
  locks : List LockOp
  holds : Tab Hold
  load : Option Load
  imgValid : BitVec 16
  imgResult : BitVec 8
  imgBuild : BitVec 46
  imgSeq : Nat
  /-- Block-level agent STATE (R451); unlisted: LIVE. Open agent commands (R454). -/
  life : Tab Life
  agentOps : List AgentOp
  /-- Block-level instance states (R398); unlisted: FREE, and ACTIVE for instance 0. FLUSHED bits (R407). -/
  ist : Tab IState
  flushed : List InstId
  instOps : List InstOp
  saved : List Word
  /-- Running and pending power commands by channel (R426), and a BANK_GATE that runs beside a GATE or OFF (R441). -/
  pwrRun : Tab PwrOp
  pwrPend : Tab PwrOp
  bankRun : Tab PwrOp
  chRst : Tab Nat
  /-- Raw-access holds by channel (R459); the open DBG_RAW_CMD. -/
  raw : Tab RawHold
  rawOpen : Option Nat
  /-- BARO_ST.ALARM and the ticks at or above ALARM since (R457). -/
  alarm : BitVec 16
  alarmGood : Tab Nat
  chans : Vector Channel 16
  deriving DecidableEq, Repr

/-- Why a step can stop the machine. -/
inductive Fault
  /-- A supply outside its operating range (R52: the block guarantees no functional result then). Raised by no command of
  the table: the supplies are out of the model (Scope). Safe. -/
  | supplyOutOfRange
  deriving DecidableEq, Repr

/-- Why a command has no meaning. -/
inductive Refusal
  /-- The command has no meaning in this model yet; raised by an arm of exec alone. Safe. -/
  | notModelled (mnemonic : String)
  deriving DecidableEq, Repr

/-- The default levels of Table 8-9, LEVEL_k in bits [3k+2:3k]. -/
def defaultLevels : BitVec 27 :=
  (6 : BitVec 3) ++ (0 : BitVec 3) ++ (7 : BitVec 3) ++ (1 : BitVec 3) ++ (4 : BitVec 3) ++ (5 : BitVec 3) ++
  (4 : BitVec 3) ++ (3 : BitVec 3) ++ (2 : BitVec 3)

/-- A tile after reset; its LFSR is 0x1000 + 16c + t (R247). -/
def Tile.fresh (c t : Nat) : Tile where
  ents := []
  gens := []
  slots := []
  lastSlot := 255
  run0 := none
  run1 := none
  fail0 := false
  fail1 := false
  fault0 := false
  fault1 := false
  sfGrant := none
  lcGrant := none
  sfReqs := []
  lcReqs := []
  bgWaits := []
  seqs := []
  cursor := 0
  demoted := []
  waits := []
  lfsr := BitVec.ofNat 16 (0x1000 + 16 * c + t)
  miss := none
  fails := []
  wayFail := 0
  decayAt := []
  dark := false
  gated := false
  powering := false
  scrubPos := 0
  scrubAt := 0
  overlay := []
  biRows := []
  shadowBad := []

/-- A ring stop after reset (R285). -/
def Stop.fresh : Stop where
  rcv := []
  rsp := []
  out := []
  req := []
  turn := none
  sent := []
  again := []
  fails := 0
  broken := false
  dropping := false
  nextSeq := 0
  claim := false

/-- The tag a slot takes from its ring's table: slots 0 and 8 are forced jetstream RSP on an X-ring and OUT on a
Y-ring (R275). -/
def slotTag (y : Bool) (table : BitVec 32) (k : Nat) : BitVec 2 :=
  if k % 8 = 0 then (if y then 2 else 1) else (table >>> (2 * (k % 16))).setWidth 2

/-- Ring r after reset, slots tagged from the table given (R285): rings 0-3 are the X-rings, 4-7 the Y-rings. -/
def Ring.fresh (r : Nat) (table : BitVec 32) : Ring where
  slots := Vector.ofFn fun k => ⟨slotTag (4 ≤ r) table k.val, none, none⟩
  stops := Vector.replicate 5 Stop.fresh
  phase := 0
  step := 0
  table := table
  retired := false
  pend := none

/-- A queue that is empty, as after reset (R387). -/
def Queue.fresh : Queue where
  sub := Vector.replicate 4 ⟨0, 0⟩
  moving := false
  hold1 := 0
  hold2 := 0
  hold3 := 0
  flush := none
  emptyAfter := false

/-- The reset value of a ring's slot table (Table 10-7). -/
def ringTableReset (r : Nat) : BitVec 32 := if r < 4 then 0xC1010101 else 0xC2020202

/-- Channel c after cold reset: QUIESCED with HA_FENCE[c] high (R416, R59). -/
def Channel.fresh (c : Nat) : Channel where
  pwr := .quiesced
  fence := true
  cause := .none
  alive := false
  aliveTick := 0
  drainTick := 0
  vacate := 0
  limit := false
  startup := true
  upWait := false
  resumeOn := false
  age := 0
  nextRid := 0
  hoff := []
  strA := false
  strB := false
  lastA := 0
  lastB := 0
  lastPa := 0
  decEdge := 0
  landings := []
  pause := 0
  openReqs := []
  wexp := []
  biAcks := []
  anchors := []
  mrsHeld := []
  vrs := []
  dout := []
  sno := []
  mrq := []
  wasLowA := false
  wasLowB := false
  broken := 0
  shown := []
  lastVrs := 0
  lastDout := 0
  lastSno := 0
  lastMrq := 0
  lastSni := 0
  lastDin := 0
  lastMrs := 0
  halves := []
  stallVrs := false
  stallDout := false
  stallSno := false
  sno16 := []
  lastDd := 0
  settled := false
  loops := List.replicate 17 0
  minNow := 0
  thresh := 0
  mhz := 0
  pclkValid := false
  decision := false
  causeBaro := false
  setByBaro := false
  good := 0
  winCount := 0
  winStart := 0
  winLast := none
  winGood := 0
  tiles := Vector.ofFn fun t => Tile.fresh c t.val
  rings := Vector.ofFn fun r => Ring.fresh r.val (ringTableReset r.val)
  rcvRes := []
  rcvBuf := []
  mem := []
  rows := []
  qBad := []
  lc := .on
  invDone := false
  lcRun := none
  lcHeld := none
  jobs := []
  nextJob := 0
  levels := defaultLevels
  newLevels := none
  starveE := 0
  starveT := 0
  tgActive := false
  epoch := 0
  swapOpen := none
  notice := none
  gauges := Vector.replicate 7 0
  leakAt := Vector.replicate 7 0
  setRet := []
  pgRet := []
  scrubQ := 0
  scrubQAt := 0
  action := none
  ckptAt := 0
  ckpt := Vector.replicate 2 none
  disagreed := 0
  queueOf := []
  simplex := false
  stewardOff := false
  xret := 0
  yret := 0
  walks := []
  walkPos := Vector.replicate 16 0
  copy := []
  life := []
  ist := []
  queues := []
  pendq := []
  missed := 0
  owed := ⟨[], 0, []⟩
  dgHold := Vector.replicate 8 0
  dgRow := 0
  dgCol := 0
  dgRes := 0
  paBusy := none
  paData := 0
  paPoison := false
  paSrc := 0
  paErr := 0
  paW := (0, 0, 0)
  paRetry := none

/-- The block right after cold reset: nothing written, every channel QUIESCED with VALID clear (R416). -/
def State.reset : State where
  pending := []
  tick := 0
  ripe := []
  pclk := 0
  coldN := true
  warmN := true
  adLevel := 0
  mcLevel := 0
  adSince := []
  mcSince := []
  adLost := 0
  mcLost := 0
  rspQ := []
  app := []
  stg := []
  ct := []
  held := []
  wo := []
  cmSeq := []
  snap := []
  jrn := []
  jrnBad := []
  jrnNext := 1
  jrnOpen := []
  windows := []
  jrnGauge := 0
  jrnScrub := 0
  jrnLeakAt := 0
  jrnScrubAt := 0
  strobe := none
  updApplied := 0
  updSkipped := 0
  snapOp := none
  snapTime := 0
  locks := []
  holds := []
  load := none
  imgValid := 0
  imgResult := 0xFF
  imgBuild := 0
  imgSeq := 0
  life := []
  agentOps := []
  ist := []
  flushed := []
  instOps := []
  saved := List.replicate 19 0
  pwrRun := []
  pwrPend := []
  bankRun := []
  chRst := []
  raw := []
  rawOpen := none
  alarm := 0
  alarmGood := []
  chans := Vector.ofFn fun c => Channel.fresh c.val

end Sys2Proof.Machine
end

