-- ==== Sys2Proof/Machine/Table.lean ====
section
/-! DEFINITION. The operations on sparse tables: read, write, remove, in the canonical form with keys strictly rising. -/

namespace Sys2Proof.Machine

/-- The value listed under a key. -/
def Tab.get? {α : Type} : Tab α → Nat → Option α
  | [], _ => none
  | (j, v) :: r, k => if j = k then some v else Tab.get? r k

/-- The table with a key listed under a value. -/
def Tab.put {α : Type} : Tab α → Nat → α → Tab α
  | [], k, v => [(k, v)]
  | (j, w) :: r, k, v =>
    if k < j then (k, v) :: (j, w) :: r
    else if j = k then (k, v) :: r
    else (j, w) :: Tab.put r k v

/-- The table with a key not listed. -/
def Tab.drop {α : Type} : Tab α → Nat → Tab α
  | [], _ => []
  | (j, w) :: r, k => if j = k then Tab.drop r k else (j, w) :: Tab.drop r k

/-- The value under a key, or a default. -/
def Tab.getD {α : Type} (t : Tab α) (k : Nat) (d : α) : α := (Tab.get? t k).getD d

/-- The keys rise strictly. -/
def Tab.rising {α : Type} : Tab α → Bool
  | [] => true
  | [_] => true
  | (j, _) :: (k, v) :: r => decide (j < k) && Tab.rising ((k, v) :: r)

/-- The canonical form of a table of words whose unlisted words are zero: keys rise strictly and no entry is zero. -/
def Tab.wf (t : Tab Word) : Bool := Tab.rising t && t.all (fun e => e.2 != 0)

/-- Write a word into a table whose unlisted words are zero, keeping the canonical form. -/
def Tab.putWord (t : Tab Word) (k : Nat) (v : Word) : Tab Word := if v = 0 then Tab.drop t k else Tab.put t k v

/-- The word under a key of a table whose unlisted words are zero. -/
def Tab.word (t : Tab Word) (k : Nat) : Word := Tab.getD t k 0

end Sys2Proof.Machine
end

