-- ==== Sys2Proof/Machine/RegMap.lean ====
section
/-! DEFINITION. The register map (20, 21): which addresses are mapped, how a page identifies itself, and for every
register which bits belong to fields of each class (R353) and their reset values. Status fields (ST) have no bits here:
they are computed from the state in Flags.lean. -/

namespace Sys2Proof.Machine

/-- A page of the host-port window (R444, R461, R464). -/
inductive Page
  | blk (p : Nat)
  | chan (c : Nat) (p : Nat)
  | raw (c : Nat)
  | pool (c : Nat)
  deriving DecidableEq, Repr

/-- The bits of one register by field class, and the reset values of its CF/LK and CT bits. -/
structure Reg where
  cf : Nat := 0
  lk : Nat := 0
  ct : Nat := 0
  wo : Nat := 0
  cm : Nat := 0
  reset : Nat := 0
  ctReset : Nat := 0
  deriving DecidableEq, Repr

/-- The channel page numbers of Table 21-1. -/
def chanPageMapped (p : Nat) : Bool :=
  p ≤ 0x10 || (0x20 ≤ p && p ≤ 0x4F) || (0x50 ≤ p && p ≤ 0x67)

/-- The block-level page numbers of Table 20-1. -/
def blkPageMapped (p : Nat) : Bool := p ≤ 0xB || (0x10 ≤ p && p ≤ 0x17)

/-- The page an address lies in (R444, R461, R464); none: the access is answered DECODE. -/
def pageOf (a : Nat) : Option Page :=
  if a < 0x100000 then
    if blkPageMapped (a / 0x1000) then some (.blk (a / 0x1000)) else none
  else if a < 0x900000 then
    let c := (a - 0x100000) / 0x80000
    let p := (a - 0x100000) % 0x80000 / 0x1000
    if chanPageMapped p then some (.chan c p) else none
  else if a < 0xA00000 then none
  else
    let c := (a - 0xA00000) / 0x60000
    let p := (a - 0xA00000) % 0x60000 / 0x1000
    if p = 0 then some (.raw c) else if p = 1 then some (.pool c) else none

/-- The address a page begins at. -/
def Page.base : Page → Nat
  | .blk p => p * 0x1000
  | .chan c p => 0x100000 + c * 0x80000 + p * 0x1000
  | .raw c => 0xA00000 + c * 0x60000
  | .pool c => 0xA01000 + c * 0x60000

/-- The channel a page belongs to. -/
def Page.channel : Page → Option Nat
  | .blk _ => none
  | .chan c _ => some c
  | .raw c => some c
  | .pool c => some c

/-- PG_ID.TYPE (Tables 20-1, 21-1, R464). -/
def Page.type : Page → Nat
  | .blk p => if p < 0x10 then p + 1 else 0xD
  | .chan _ p =>
    if p ≤ 0x10 then 0x100 + p
    else if p < 0x30 then 0x111
    else if p < 0x40 then 0x112
    else if p < 0x50 then 0x113
    else 0x114
  | .raw _ => 0x115
  | .pool _ => 0x116

/-- PG_ID.INDEX (R445, R462). -/
def Page.index : Page → Nat
  | .blk _ => 0xFFFF
  | .chan c p =>
    c * 0x100 +
      (if p ≤ 0x10 then 0 else if p < 0x50 then p % 0x10 else p - 0x50)
  | .raw c => c * 0x100
  | .pool c => c * 0x100

/-- PG_CAP (Tables 20-1, 21-1, R464). -/
def Page.cap : Page → Nat
  | .blk p =>
    match p with
    | 0x0 => 0x00480401 | 0x1 => 0x00100104 | 0x2 => 0x00180005 | 0x3 => 0x01C00102
    | 0x4 => 0x04C00106 | 0x5 => 0x04C00405 | 0x6 => 0x02580405 | 0x7 => 0x00080000
    | 0x8 => 0x00C00201 | 0x9 => 0x00380405 | 0xA => 0x00500204 | 0xB => 0x00C00105
    | _ => 0x04000001
  | .chan _ p =>
    match p with
    | 0x00 => 0x00280804 | 0x01 => 0x00100000 | 0x02 => 0x00300101 | 0x03 => 0x01900001
    | 0x04 => 0x07C00201 | 0x05 => 0x00D00101 | 0x06 => 0x07880001 | 0x07 => 0x00380305
    | 0x08 => 0x00600305 | 0x09 => 0x00100000 | 0x0A => 0x00580101 | 0x0B => 0x06C00205
    | 0x0C => 0x03C00907 | 0x0D => 0x00200407 | 0x0E => 0x00300301 | 0x0F => 0x01081003
    | 0x10 => 0x00280800
    | _ =>
      if p < 0x30 then 0x05000007 else if p < 0x40 then 0x01400000
      else if p < 0x50 then 0x00200000 else 0x02400002
  | .raw _ => 0x00B80006
  | .pool _ => 0x00A00006

/-- Offset `o` is register `k` of an array of `n` registers at `base` with a stride. -/
def inArray (o base stride n : Nat) : Bool :=
  base ≤ o && o < base + stride * n && (o - base) % stride == 0

/-- All 64 bits. -/
def ones64 : Nat := 0xFFFFFFFFFFFFFFFF

/-- The registers of the block-level pages from offset 0x040 (Tables 2-12 to 2-15, 12-13, 14-9 to 14-12, 16-4, 16-5,
17-7, 18-4, 8-19 to 8-21, 20-4, 20-6 to 20-8). -/
def blkReg (p o : Nat) : Reg :=
  match p with
  | 0x0 =>
    if o = 0x50 then { cf := 0xFFFFFFFF, reset := 0x02000200 }
    else if o = 0x58 || o = 0x60 then { cf := ones64 }
    else if o = 0x78 then { cf := 0xFFFF }
    else if o = 0x80 then { cf := 0x00FFFFFFF0000001, reset := 0x0000100400000000 }
    else {}
  | 0x1 => if o = 0x40 then { cm := 0xFFFFFFFF } else {}
  | 0x2 => if o = 0x40 then { cm := 0x1FFFF } else if o = 0x50 then { cf := 0xFFFF } else {}
  | 0x3 => if o = 0xC8 then { ct := ones64 } else if inArray o 0x40 8 16 then { ct := 0xFFFFFFFFFFFF } else {}
  | 0x4 =>
    if o = 0x40 then { cm := ones64 }
    else if inArray o 0x108 16 64 then { ct := 0xFFFFFFFFFF000000 } else {}
  | 0x5 =>
    if o = 0x40 then { cm := 0xFFF }
    else if inArray o 0x100 8 128 then { lk := 0x000007F7000007F7 } else {}
  | 0x6 => if o = 0x40 then { cm := ones64 } else if inArray o 0x200 8 19 then { cf := ones64 } else {}
  | 0x8 => if o = 0x40 then { cf := 0xFFF } else {}
  | 0x9 =>
    if o = 0x40 then { cm := 0xFFF }
    else if o = 0x50 then { cf := 0xFFFFFFFF, reset := 0x0064000A } else {}
  | 0xA =>
    if inArray o 0x40 8 6 then { wo := ones64 }
    else if o = 0x70 then { cm := 0x1FFFF } else if o = 0x78 then { cm := ones64 } else {}
  | 0xB =>
    if o = 0x40 then { lk := 0x3, cf := 0xFFFF00, reset := 0x6403 }
    else if o = 0x48 then { cm := 0x7FF } else {}
  | _ => if 0x10 ≤ p && inArray o 0x40 8 128 then { cf := 0x1FFFFFFFF } else {}

/-- The default deadline budgets of Table 8-9, BUDGET_k in bits [7k+6:7k]. -/
def budgetReset : Nat :=
  100 + 75 * 2 ^ 7 + 50 * 2 ^ 14 + 25 * 2 ^ 21 + 100 * 2 ^ 28 + 127 * 2 ^ 35 + 10 * 2 ^ 42 + 127 * 2 ^ 49 + 2 ^ 56

/-- Q_BASE at reset: a system queue q places its sub-buffers at 256q, 256q+128, 256q+192, 256q+224 (Table 15-4). -/
def qBaseReset (q : Nat) : Nat :=
  if q < 16 then
    256 * q + (256 * q + 128) * 2 ^ 14 + (256 * q + 192) * 2 ^ 28 + (256 * q + 224) * 2 ^ 42
  else 0

/-- The registers of the channel pages from offset 0x040. -/
def chanReg (p o : Nat) : Reg :=
  match p with
  | 0x00 => if o = 0x60 then { cm := 1 } else {}
  | 0x02 => if o = 0x40 then { cf := 3, reset := 1 } else {}
  | 0x03 =>
    if o = 0x40 then { cf := 0x7FFFF, reset := 0x60296 }
    else if o = 0x48 then { cf := ones64, reset := 0x8888888888888888 }
    else if inArray o 0x50 8 16 then { cf := ones64 }
    else if inArray o 0xD0 8 32 then { cf := ones64, reset := 0x3030303030303030 } else {}
  | 0x04 =>
    if o = 0x40 then { cf := 0xFF0F07, reset := 0x100807 }
    else if inArray o 0x78 8 241 then { cf := 0xFFFFF, reset := 0x80000 } else {}
  | 0x05 =>
    if o = 0x40 then { cf := 0xF, reset := 4 }
    else if o = 0x100 then { cf := 0xFFFFF3FF1, reset := 0x808001041 }
    else {}
  | 0x06 => if inArray o 0x40 8 241 then { cf := 0xFFFFFF, reset := 0xA00000 } else {}
  | 0x07 =>
    if o = 0x40 then { cf := 0xFFFFFFFF }
    else if o = 0x50 then { cf := 0x0000FFFF0FFF0FF3, reset := 0x0000006404000080 }
    else if o = 0x58 then { cm := 0x7FFFFFF }
    else if o = 0x68 then { cf := 0x7FFFFFFFFFFFFFFF, reset := budgetReset } else {}
  | 0x08 =>
    if o = 0x40 then { cf := 0xFFFFF3, reset := 0x6482 }
    else if o = 0x48 then { cm := 3 }
    else if o = 0x50 then { cm := 0x7FFFFFFFFFFFFF }
    else if inArray o 0x60 8 4 then { cf := ones64 } else {}
  | 0x0A =>
    if o = 0x40 then { cf := 0xFF07, reset := 0x2002 }
    else if o = 0x48 then { cf := 0xFFFFF, reset := 0x3E8 }
    else if inArray o 0x50 8 4 then { cf := 0xFFFFFFFF, reset := 0xC1010101 }
    else if inArray o 0x70 8 4 then { cf := 0xFFFFFFFF, reset := 0xC2020202 } else {}
  | 0x0B =>
    if o = 0x40 then { cf := 0xFFFF03, reset := 0x6403 }
    else if o = 0x48 then { cf := 0x3FFFFFFFFFFF, reset := 0x34 * 2 ^ 40 }
    else if o = 0x60 then { cm := 3 }
    else if o = 0x70 then { wo := 0xFFFFFFFF }
    else if inArray o 0x100 0x18 64 then { lk := 0x7FFFFFFFFFFFFF, reset := 0xF * 2 ^ 40 }
    else if inArray o 0x108 0x18 64 then { lk := 0x3FFFFFFFFFF }
    else if inArray o 0x110 0x18 64 then { lk := 0xF } else {}
  | 0x0C =>
    if o = 0x40 then { cf := 3, reset := 1 }
    else if o = 0x48 then { cf := 0xFFFF, reset := 0x10, ct := 0xFFFFFFFF0000 }
    else if inArray o 0x50 8 7 then { cf := 0xFFFFFFFF0000, reset := 0x001000400000 }
    else if o = 0x88 then { cf := 7 }
    else if o = 0x90 then { cm := 0x1FFFFFFFFFFFFFFF } else {}
  | 0x0D =>
    if o = 0x40 then { cf := 0xFFFFFF, reset := 0x14012C }
    else if o = 0x48 then { cm := 3 }
    else if o = 0x58 then { ct := ones64 } else {}
  | 0x0E => if inArray o 0x48 8 4 then { cf := ones64, reset := 0xFEDCBA9876543210 } else {}
  | 0x0F =>
    if inArray o 0x40 16 16 then { cf := 0x0000FFFF01FF1FFF, reset := 0x0000FFFF00000700 }
    else if inArray o 0x48 16 16 then { ct := 0x1FFFFFFFFFFFF } else {}
  | _ =>
    if 0x20 ≤ p && p < 0x30 then
      if 0x40 ≤ o && o < 0x540 then
        let q := 16 * (p - 0x20) + (o - 0x40) / 0x50
        match (o - 0x40) % 0x50 with
        | 0x00 => { cf := 0xFFFF, reset := if q < 16 then 0x5678 else 0 }
        | 0x08 => { cf := 0xFFFFFFFFFFFFFF, reset := qBaseReset q }
        | 0x38 => { ct := ones64 }
        | 0x40 => { cm := 0x3F }
        | _ => {}
      else {}
    else if 0x50 ≤ p then
      if o = 0x40 || o = 0x48 || o = 0x50 then { ct := 0xFFFFFFFFFFFF }
      else if inArray o 0x100 8 48 then { ct := 0xFFFFFFFFFFFF } else {}
    else {}

/-- The registers of the diagnostic window (Tables 21-8, 21-9). -/
def rawReg (o : Nat) : Reg :=
  if o = 0x40 then { ct := 0x1FFFFF }
  else if inArray o 0xA0 8 8 then { ct := ones64 }
  else if o = 0xE0 then { ct := 0xFF }
  else if o = 0xE8 then { ct := ones64 }
  else if o = 0xF0 then { cm := 1 } else {}

/-- The pool access page (Table 21-9). -/
def poolReg (o : Nat) : Reg :=
  if o = 0x40 then { ct := 0x3FFFFFFFFFFF }
  else if o = 0x48 then { ct := ones64, ctReset := ones64 }
  else if inArray o 0x50 8 8 then { ct := ones64 }
  else if o = 0x90 then { cm := 3 } else {}

/-- The common page header (Table 14-1). -/
def headerReg (o : Nat) : Reg :=
  match o with
  | 0x10 => { lk := 0xFFFFFFFF, wo := 0x100000000, reset := 0x80010001 }
  | 0x18 => { cf := 0x1F }
  | 0x28 => { cf := ones64 }
  | 0x30 => { ct := ones64 }
  | _ => {}

/-- The register at an offset of a page, first view. -/
def regAt (pg : Page) (o : Nat) : Reg :=
  if o < 0x40 then headerReg o
  else
    match pg with
    | .blk p => blkReg p o
    | .chan _ p => chanReg p o
    | .raw _ => rawReg o
    | .pool _ => poolReg o

/-- The offset of an address in its page without the second view (R352). -/
def viewOff (a : Nat) : Nat := a % 0x1000 % 0x800
/-- Whether an address lies in the second view (R352). -/
def secondView (a : Nat) : Bool := 0x800 ≤ a % 0x1000

/-- The register an address names. -/
def regOf (a : Nat) : Reg :=
  match pageOf a with
  | none => {}
  | some pg => regAt pg (viewOff a)

/-- The applied value of the CF and LK fields at an address. -/
def appWord (s : State) (a : Nat) : Word := Tab.getD s.app a (BitVec.ofNat 64 (regOf a).reset)
/-- The staged value of the CF and LK fields at an address (R352). -/
def stgWord (s : State) (a : Nat) : Word := Tab.getD s.stg a (BitVec.ofNat 64 (regOf a).reset)
/-- The value of the CT fields at an address. -/
def ctWord (s : State) (a : Nat) : Word := Tab.getD s.ct a (BitVec.ofNat 64 (regOf a).ctReset)

/-- A field of a word. -/
def bits (w : Word) (lo n : Nat) : Nat := w.toNat / 2 ^ lo % 2 ^ n

/-- An applied field of a block-level page. -/
def cfB (s : State) (p o lo n : Nat) : Nat := bits (appWord s (p * 0x1000 + o)) lo n
/-- An applied field of a page of channel c. -/
def cfC (s : State) (c p o lo n : Nat) : Nat := bits (appWord s (0x100000 + c * 0x80000 + p * 0x1000 + o)) lo n
/-- The address of a register of channel c. -/
def addrC (c p o : Nat) : Nat := 0x100000 + c * 0x80000 + p * 0x1000 + o

/-- A field for which 0 is applied as 1. -/
def atLeast1 (n : Nat) : Nat := if n = 0 then 1 else n

end Sys2Proof.Machine
end

