-- ==== Sys2Proof/Machine/Operands.lean ====
section
/-! DEFINITION. The operands of the block: address hashes and indices (R12 to R18), the header and its codes (Tables 3-1,
3-3 to 3-6), directory slots (Tables 5-1, 5-2), tag entries (Table 9-1), journal entries (Table 14-6), and CRC-32C. -/

namespace Sys2Proof.Machine

-- ## Addresses (R12 to R18)

/-- Parity of the bits i < n of g with i mod m = j. -/
def foldBit (g : BitVec 40) (m j : Nat) : Nat → Bool
  | 0 => false
  | n + 1 => xor (foldBit g m j n) (decide (n % m = j) && g.getLsbD n)

/-- The region number of a line, G = PA[51:12]. -/
def regionOf (l : LAddr) : BitVec 40 := (l >>> 6).setWidth 40

/-- The channel of a line (R12). -/
def channelOf (l : LAddr) : Nat :=
  let g := regionOf l
  (foldBit g 4 0 40).toNat + 2 * (foldBit g 4 1 40).toNat + 4 * (foldBit g 4 2 40).toNat + 8 * (foldBit g 4 3 40).toNat

/-- The home tile of a line (R13). -/
def tileOf (l : LAddr) : Nat :=
  let g := regionOf l
  (foldBit g 5 0 40).toNat + 2 * (foldBit g 5 1 40).toNat + 4 * (foldBit g 5 2 40).toNat + 8 * (foldBit g 5 3 40).toNat

/-- PA[11:6] of a line. -/
def lineInRegion (l : LAddr) : Nat := l.toNat % 64
/-- The cirrus set, PA[16:6] (Table 1-4). -/
def cirrusSet (l : LAddr) : Nat := l.toNat % 2048
/-- The stratus set, PA[16:12] joined with PA[22:17] (Table 1-4). -/
def stratusSet (l : LAddr) : Nat := (l.toNat / 64 % 32) * 64 + l.toNat / 2048 % 64
/-- The snoop filter tag, PA[43:17] (Table 1-4). -/
def sfTag (l : LAddr) : Nat := l.toNat / 2048 % 2 ^ 27
/-- The line-cache set, PA[13:6] (Table 1-4). -/
def lcSet (l : LAddr) : Nat := l.toNat % 256
/-- The line-cache tag, PA[43:14] (Table 1-4). -/
def lcTag (l : LAddr) : Nat := l.toNat / 256 % 2 ^ 30

/-- Recover PA[51:44] of a line of channel c and tile t from its low bits (the recover_top procedure of chapter 01). -/
def recoverTop (c t : Nat) (low : LAddr) : LAddr :=
  let d := c ^^^ channelOf low
  let e := t ^^^ tileOf low
  let b (x j : Nat) : Bool := x.testBit j
  let b3 := b e 0
  let b4 := b e 1
  let b7 := xor (b d 3) (b e 0)
  let b0 := xor (b d 0) (b e 1)
  let b5 := xor (b e 2) b0
  let b1 := xor (b d 1) b5
  let b6 := xor (b e 3) b1
  let b2 := xor (b d 2) b6
  low ||| BitVec.ofNat 46
    ((b0.toNat + 2 * b1.toNat + 4 * b2.toNat + 8 * b3.toNat + 16 * b4.toNat + 32 * b5.toNat + 64 * b6.toNat +
      128 * b7.toNat) * 2 ^ 38)

/-- The line of a cirrus entry: tag and set of its slot (Table 1-4). -/
def cirrusLine (c t set tag : Nat) : LAddr := recoverTop c t (BitVec.ofNat 46 (tag * 2048 + set))
/-- Line k of a stratus entry's region: PA[16:12] is the upper five bits of the stratus set (Table 1-4). -/
def stratusLine (c t set tag k : Nat) : LAddr :=
  recoverTop c t (BitVec.ofNat 46 (tag * 2048 + set / 64 * 64 + k))
/-- The line of a line-cache frame. -/
def frameLine (c t set tag : Nat) : LAddr := recoverTop c t (BitVec.ofNat 46 (tag * 256 + set))

/-- The n lines from a line up (R76). -/
def linesFrom (l : LAddr) (n : Nat) : List LAddr := (List.range n).map fun k => l + BitVec.ofNat 46 k

/-- A line lies in the naturally aligned range of 2^size lines at base. -/
def inRange (l base : LAddr) (size : Nat) : Bool := l.toNat / 2 ^ size == base.toNat / 2 ^ size

-- ## Opcodes and sub-types (Tables 3-3 to 3-6)

/-- Request opcodes (Table 3-3). -/
def ReqOp.code : ReqOp → BitVec 6
  | .rdShd => 0x01 | .rdOwn => 0x02 | .rdAny => 0x03 | .rdCur => 0x04 | .rdSpec => 0x05 | .upgrade => 0x06
  | .invAll => 0x07 | .wrFull => 0x08 | .wrPtl => 0x09 | .atomic => 0x0A | .evict => 0x0B | .biConflict => 0x0C

/-- Snoop opcodes (Table 3-3). -/
def SnpOp.code : SnpOp → BitVec 6
  | .inv => 0x20 | .data => 0x21 | .cur => 0x22 | .fwd _ => 0x23 | .fwdInv => 0x24

/-- SUBTYPE of a snoop: the state the forwarder keeps (R78). -/
def SnpOp.sub : SnpOp → BitVec 7
  | .fwd keepF => if keepF then 4 else 1
  | _ => 0

/-- Answer opcodes (Table 3-3). -/
def Ans.code : Ans → BitVec 6
  | .i => 0x28 | .s => 0x29 | .e => 0x2A | .iD => 0x2B | .sD => 0x2C

/-- The answer is followed by SDATA (R90). -/
def Ans.hasData : Ans → Bool
  | .iD => true | .sD => true | _ => false

/-- Lines of a request (R76): LINES + 1 for RD_CUR and WR_FULL, else 1. -/
def linesOf (op : ReqOp) (sub : BitVec 7) : Nat :=
  match op with
  | .rdCur | .wrFull => sub.toNat % 4 + 1
  | _ => 1

/-- KEEP of a write (Table 3-4). -/
def keepOf (sub : BitVec 7) : Nat := sub.toNat / 4 % 8
/-- WANT of an UPGRADE asks for E (Table 3-4). -/
def wantE (sub : BitVec 7) : Bool := sub.toNat % 8 == 2
/-- NT of an INV_ALL (Table 3-4). -/
def ntOf (sub : BitVec 7) : Bool := sub.toNat % 2 == 1
/-- OP of an ATOMIC (Table 3-4). -/
def atomOp (sub : BitVec 7) : Nat := sub.toNat % 8
/-- QW of an ATOMIC (Table 3-4). -/
def atomQw (sub : BitVec 7) : Nat := sub.toNat / 8 % 8

/-- A SUBTYPE value Table 3-4 does not define for the opcode. -/
def badSubtype (op : ReqOp) (sub : BitVec 7) : Bool :=
  match op with
  | .atomic => 6 ≤ atomOp sub || (atomOp sub == 5 && atomQw sub % 2 == 1)
  | .wrFull | .wrPtl => 3 ≤ keepOf sub && keepOf sub ≤ 6
  | .upgrade => !(sub.toNat % 8 == 1 || sub.toNat % 8 == 2)
  | _ => false

/-- Agent kinds permit request opcodes (Table 3-7): 1 CXL host, 2 Calsel ring agent, 3 non-caching agent; 0 is not
listed and is permitted nothing (R452). -/
def permitted (op : ReqOp) (kind : Nat) : Bool :=
  match op with
  | .rdShd | .rdOwn | .rdAny | .upgrade => kind == 1 || kind == 2
  | .rdCur | .rdSpec | .wrFull | .wrPtl | .invAll => kind == 1 || kind == 2 || kind == 3
  | .atomic => kind == 2 || kind == 3
  | .evict => kind == 2
  | .biConflict => kind == 1

/-- The request is a read with data: RD_SHD, RD_ANY, RD_OWN or RD_CUR (Table 4-3). -/
def ReqOp.isRead : ReqOp → Bool
  | .rdShd | .rdOwn | .rdAny | .rdCur => true
  | _ => false

/-- The request carries WDATA (R87). -/
def ReqOp.hasData : ReqOp → Bool
  | .wrFull | .wrPtl | .atomic => true
  | _ => false

/-- The request is a posted write (R297). -/
def ReqOp.isWrite : ReqOp → Bool
  | .wrFull | .wrPtl => true
  | _ => false

/-- Verdict opcodes (Table 3-3). -/
inductive Verdict | go | discard | home | cmp | retry | err | ack
  deriving DecidableEq, Repr

/-- Codes of Table 3-3. -/
def Verdict.code : Verdict → BitVec 6
  | .go => 0x10 | .discard => 0x11 | .home => 0x12 | .cmp => 0x13 | .retry => 0x14 | .err => 0x15 | .ack => 0x16

/-- GRANT encodings (Table 3-5). -/
def grantI : BitVec 3 := 0
/-- GRANT S. -/
def grantS : BitVec 3 := 1
/-- GRANT E. -/
def grantE : BitVec 3 := 2
/-- GRANT M. -/
def grantM : BitVec 3 := 3
/-- GRANT F. -/
def grantF : BitVec 3 := 4

/-- ERR codes (Table 3-6). -/
def errMisroute : Nat := 1
/-- FENCED. -/
def errFenced : Nat := 2
/-- AGENT_DEAD. -/
def errAgentDead : Nat := 3
/-- GATE_FAULT. -/
def errGate : Nat := 4
/-- TIMEOUT. -/
def errTimeout : Nat := 5
/-- PROTOCOL. -/
def errProtocol : Nat := 6
/-- UNSUPPORTED. -/
def errUnsupported : Nat := 7

/-- SUBTYPE of RETRY or ERR: the reason or code with DDX in bit 6 (Table 3-5). -/
def endSub (v : Nat) (ddx : Bool) : BitVec 7 := BitVec.ofNat 7 (v % 64 + if ddx then 64 else 0)
/-- SUBTYPE of RDATA: GRANT and SRC (Table 3-5). -/
def rdataSub (g : BitVec 3) (src : BitVec 2) : BitVec 7 := BitVec.ofNat 7 (g.toNat + 8 * src.toNat)

/-- The 96 header bits of Table 3-1. -/
def Header.encode (h : Header) : BitVec 96 :=
  h.subtype ++ (BitVec.ofBool h.hold) ++ h.prio ++ (BitVec.ofBool h.anchor) ++ (BitVec.ofBool h.poison) ++ h.inst ++
    h.laddr ++ h.tag ++ h.agent ++ h.opcode

/-- The header of 96 bits (Table 3-1). -/
def Header.decode (w : BitVec 96) : Header where
  opcode := w.extractLsb' 0 6
  agent := w.extractLsb' 6 8
  tag := w.extractLsb' 14 16
  laddr := w.extractLsb' 30 46
  inst := w.extractLsb' 76 8
  poison := w.getLsbD 84
  anchor := w.getLsbD 85
  prio := w.extractLsb' 86 2
  hold := w.getLsbD 88
  subtype := w.extractLsb' 89 7

/-- The home tag of entry or slot n of tile t with generation g (R81). -/
def homeTag (t n : Nat) (g : BitVec 4) : Tag := BitVec.ofNat 16 (t * 4096 + g.toNat * 256 + n)
/-- The tile of a home tag. -/
def tagTile (h : Tag) : Nat := h.toNat / 4096
/-- The entry of a home tag. -/
def tagEntry (h : Tag) : Nat := h.toNat % 256
/-- The generation of a home tag. -/
def tagGen (h : Tag) : BitVec 4 := BitVec.ofNat 4 (h.toNat / 256)

-- ## Directory slots (Tables 5-1, 5-2)

/-- One way of a snoop filter set as its slot names it: invalid, a cirrus entry, a stratus entry, or KIND 0b11 (R124). -/
inductive SlotV
  | invalid
  | cirrus (tag : Nat) (dir : Dir) (inst : InstId) (ref : Bool)
  | stratus (tag : Nat) (owner : AgentId) (mask : BitVec 64) (inst : InstId) (ref : Bool)
  | bad
  deriving DecidableEq, Repr

/-- The wide vector of a wide entry, from VEC_0, its continuation and the set's extension word (R126). -/
def wideVec (vec0 : BitVec 64) (cont : BitVec 128) (ext : BitVec 64) : BitVec 256 := ext ++ cont ++ vec0

/-- Decode a slot (Tables 5-1, 5-2); `cont` and `ext` are read for a wide entry only. The spec gives no meaning to
FMT 0b11 in a valid cirrus slot: it is taken as a slot with an error, like KIND 0b11 (DESIGN CHOICE, assumption 76). -/
def decodeSlot (w : BitVec 128) (cont : BitVec 128) (ext : BitVec 64) : SlotV :=
  let kind := (w.extractLsb' 0 2).toNat
  let tag := (w.extractLsb' 2 27).toNat
  let inst := w.extractLsb' 44 8
  let ref := w.getLsbD 52
  if kind = 0 then .invalid
  else if kind = 2 then .stratus tag (w.extractLsb' 36 8) (w.extractLsb' 64 64) inst ref
  else if kind = 3 then .bad
  else if w.getLsbD 29 then .cirrus tag (.x (w.extractLsb' 64 8)) inst ref
  else
    let fwd := if w.getLsbD 35 then some (w.extractLsb' 36 8) else none
    match (w.extractLsb' 30 2).toNat with
    | 0 =>
      let n := (w.extractLsb' 32 3).toNat
      .cirrus tag (.s (.ptrs ((List.range n).map fun k => w.extractLsb' (64 + 8 * k) 8)) fwd) inst ref
    | 1 => .cirrus tag (.s (.coarse (w.extractLsb' 64 64)) fwd) inst ref
    | 2 => .cirrus tag (.s (.wide (wideVec (w.extractLsb' 64 64) cont ext)) fwd) inst ref
    | _ => .bad

/-- Pointers as payload bits: PTR0 lowest (Table 5-2). -/
def ptrBits : List AgentId → Nat
  | [] => 0
  | a :: r => a.toNat + 256 * ptrBits r

/-- A slot header (Table 5-1) from its fields. That FWD is 0 where FWD_V is 0 is the model's choice (assumption 105). -/
def slotHeader (kind tag : Nat) (x : Bool) (fmt nptr : Nat) (fwd : Option AgentId) (owner : Nat) (inst : InstId)
    (ref : Bool) : Nat :=
  kind + tag * 2 ^ 2 + x.toNat * 2 ^ 29 + fmt * 2 ^ 30 + nptr * 2 ^ 32 + fwd.isSome.toNat * 2 ^ 35 +
    (match fwd with | some a => a.toNat | none => owner) * 2 ^ 36 + inst.toNat * 2 ^ 44 + ref.toNat * 2 ^ 52

/-- The 128 bits of a slot (Tables 5-1, 5-2); the continuation and extension word of a wide entry are written apart. -/
def encodeSlot : SlotV → BitVec 128
  | .invalid => 0
  | .bad => 3
  | .stratus tag owner mask inst ref =>
    BitVec.ofNat 128 (slotHeader 2 tag true 0 0 none owner.toNat inst ref + mask.toNat * 2 ^ 64)
  | .cirrus tag dir inst ref =>
    match dir with
    | .x o => BitVec.ofNat 128 (slotHeader 1 tag true 0 1 none 0 inst ref + o.toNat * 2 ^ 64)
    | .s (.ptrs l) fwd =>
      BitVec.ofNat 128 (slotHeader 1 tag false 0 l.length fwd 0 inst ref + ptrBits l * 2 ^ 64)
    | .s (.coarse g) fwd =>
      BitVec.ofNat 128 (slotHeader 1 tag false 1 0 fwd 0 inst ref + g.toNat * 2 ^ 64)
    | .s (.wide v) fwd =>
      BitVec.ofNat 128 (slotHeader 1 tag false 2 0 fwd 0 inst ref + v.toNat % 2 ^ 64 * 2 ^ 64)
    | .i => 0
    | .region _ => 0

-- ## Sharer sets (R130 to R134)

/-- The agent is named by the sharer record: exactly, or by its group (R129). -/
def Sharers.has : Sharers → AgentId → Bool
  | .ptrs l, a => l.contains a
  | .coarse g, a => g.getLsbD (a.toNat / 4)
  | .wide v, a => v.getLsbD a.toNat

/-- Agents 0 to 255. -/
def allAgents : List AgentId := (List.range 256).map (BitVec.ofNat 8 ·)

/-- The agents a sharer record names, ascending (R157). -/
def Sharers.list : Sharers → List AgentId
  | .ptrs l => allAgents.filter l.contains
  | .coarse g => allAgents.filter fun a => g.getLsbD (a.toNat / 4)
  | .wide v => allAgents.filter fun a => v.getLsbD a.toNat

/-- The record without an agent (R132): the gap in the pointers closes, a wide bit clears, a group bit stays. -/
def Sharers.remove : Sharers → AgentId → Sharers
  | .ptrs l, a => .ptrs (l.filter (· != a))
  | .coarse g, _ => .coarse g
  | .wide v, a => .wide (v &&& ~~~(1#256 <<< a.toNat))

/-- The record names nobody. -/
def Sharers.empty : Sharers → Bool
  | .ptrs l => l.isEmpty
  | .coarse g => g == 0
  | .wide v => v == 0

/-- A wide record of four agents or fewer becomes pointers, ascending (Table 5-3). -/
def Sharers.compact : Sharers → Sharers
  | .wide v =>
    let l := (Sharers.wide v).list
    if l.length ≤ 4 then .ptrs l else .wide v
  | sh => sh

/-- The record in the wide form (R131): every agent a coarse vector named is kept. -/
def Sharers.toWide : Sharers → BitVec 256
  | .wide v => v
  | sh => (sh.list).foldl (fun v a => v ||| (1#256 <<< a.toNat)) 0

/-- The record with an agent added (Table 5-3); `mayWide` says that WIDE_EN is 1 and the set has room for a wide pair. An agent
that the record names already adds nothing. -/
def Sharers.add (sh : Sharers) (a : AgentId) (mayWide : Bool) : Sharers :=
  match sh with
  | .ptrs l =>
    if l.contains a then .ptrs l
    else if l.length < 4 then .ptrs (l ++ [a])
    else if mayWide then .wide ((Sharers.ptrs l).toWide ||| (1#256 <<< a.toNat))
    else .coarse ((l ++ [a]).foldl (fun g b => g ||| (1#64 <<< (b.toNat / 4))) 0)
  | .coarse g =>
    if g.getLsbD (a.toNat / 4) then .coarse g
    else if mayWide then .wide ((Sharers.coarse g).toWide ||| (1#256 <<< a.toNat))
    else .coarse (g ||| (1#64 <<< (a.toNat / 4)))
  | .wide v => .wide (v ||| (1#256 <<< a.toNat))

/-- The only sharer in exact pointers (Table 4-2). -/
def Sharers.only (sh : Sharers) (a : AgentId) : Bool := sh == .ptrs [a]

/-- Pointers or a wide vector (Table 4-2). -/
def Sharers.exact : Sharers → Bool
  | .coarse _ => false
  | _ => true

/-- The record takes an agent without a change of format (R130), as the clear-sky path must. -/
def Sharers.takes : Sharers → AgentId → Bool
  | .ptrs l, a => l.contains a || decide (l.length < 4)
  | .coarse _, _ => false
  | .wide _, _ => true

/-- The record loses an agent it names without a change of format (R130). -/
def Sharers.yields (sh : Sharers) (a : AgentId) : Bool := sh.has a && (sh.remove a).compact == sh.remove a

/-- The directory state with an agent removed (R132, R133): the forwarder goes with it (R134), the last agent empties it. -/
def Dir.remove (d : Dir) (a : AgentId) : Dir :=
  match d with
  | .i => .i
  | .s sh fwd =>
    let sh' := (sh.remove a).compact
    if sh'.empty then .i else .s sh' (if fwd == some a then none else fwd)
  | .x o => if o == a then .i else .x o
  | .region o => if o == a then .i else .region o
/-- The directory state with an agent removed and its format kept (R130): what the clear-sky path writes. -/
def Dir.strike (d : Dir) (a : AgentId) : Dir :=
  match d with
  | .s sh fwd =>
    let sh' := sh.remove a
    if sh'.empty then .i else .s sh' (if fwd == some a then none else fwd)
  | d => d.remove a

/-- The agents a state records, ascending. -/
def Dir.agents : Dir → List AgentId
  | .i => []
  | .s sh _ => sh.list
  | .x o => [o]
  | .region o => [o]

/-- The owner a state records (X or region-exclusive). -/
def Dir.owner : Dir → Option AgentId
  | .x o => some o
  | .region o => some o
  | _ => none

/-- The state records the agent. -/
def Dir.records : Dir → AgentId → Bool
  | .i, _ => false
  | .s sh _, a => sh.has a
  | .x o, a => o == a
  | .region o, a => o == a

/-- The forwarder a state names (R134). -/
def Dir.fwd : Dir → Option AgentId
  | .s _ f => f
  | _ => none

/-- The state a KEEP of 0b111 stands for (R154, R169): S for a recorded sharer, E for the owner, I otherwise. -/
def Dir.priorGrant (d : Dir) (a : AgentId) : BitVec 3 :=
  match d with
  | .s sh _ => if sh.has a then grantS else grantI
  | .x o => if o == a then grantE else grantI
  | .region o => if o == a then grantE else grantI
  | .i => grantI

-- ## Tag entries (Table 9-1)

/-- A line-cache tag entry (Table 9-1). -/
structure TagE where
  tag : Nat
  valid : Bool
  dirty : Bool
  poison : Bool
  pf : Bool
  fill : Bool
  deriving DecidableEq, Repr

/-- The tag entry of 64 bits. -/
def TagE.decode (w : Word) : TagE where
  tag := bits w 0 30
  valid := w.getLsbD 30
  dirty := w.getLsbD 31
  poison := w.getLsbD 32
  pf := w.getLsbD 33
  fill := w.getLsbD 34

/-- The 64 bits of a tag entry. -/
def TagE.encode (e : TagE) : Word :=
  BitVec.ofNat 64 (e.tag % 2 ^ 30 + e.valid.toNat * 2 ^ 30 + e.dirty.toNat * 2 ^ 31 + e.poison.toNat * 2 ^ 32 +
    e.pf.toNat * 2 ^ 33 + e.fill.toNat * 2 ^ 34)

-- ## Journal entries (Tables 14-3, 14-6)

/-- Codes of Table 14-3. -/
def JState.code : JState → Nat
  | .accepted => 1 | .pending => 2 | .running => 3 | .done => 4 | .failed => 5

/-- A command that has not ended. -/
def JState.isOpen : JState → Bool
  | .done => false | .failed => false | _ => true

/-- Word w of a journal entry (Table 14-6). -/
def JEntry.word (e : JEntry) (w : Nat) : Word :=
  match w with
  | 0 => BitVec.ofNat 64 (e.seq % 2 ^ 48 + e.state.code * 2 ^ 48 + e.ctx.toNat * 2 ^ 51 + e.result.toNat * 2 ^ 56)
  | 1 => BitVec.ofNat 64 (e.cmd.toNat + e.chan * 2 ^ 12 + e.detail.toNat * 2 ^ 20)
  | 2 => e.arg
  | 3 => BitVec.ofNat 64 (e.tAccept % 2 ^ 40 + min e.elapsed 0xFFFFFF * 2 ^ 40)
  | _ => 0

-- ## CRC-32C (R267)

/-- One bit of the reflected Castagnoli CRC: the polynomial 0x1EDC_6F41 reflected is 0x82F6_3B78. -/
def crcBit (r : BitVec 32) : BitVec 32 := if r.getLsbD 0 then (r >>> 1) ^^^ 0x82F63B78 else r >>> 1
/-- One byte of the CRC. -/
def crcByte (r : BitVec 32) (b : BitVec 8) : BitVec 32 :=
  crcBit (crcBit (crcBit (crcBit (crcBit (crcBit (crcBit (crcBit (r ^^^ b.setWidth 32))))))))
/-- CRC-32C of a byte string (R267). -/
def crc32c (l : List (BitVec 8)) : BitVec 32 := (l.foldl crcByte 0xFFFFFFFF) ^^^ 0xFFFFFFFF
/-- The n low bytes of a number, lowest first. -/
def bytesOf (v : Nat) (n : Nat) : List (BitVec 8) := (List.range n).map fun k => BitVec.ofNat 8 (v / 2 ^ (8 * k))

/-- The route word of a flit (Table 10-2). -/
def Flit.route (f : Flit) : Nat :=
  f.dest + f.src * 2 ^ 5 + (match f.cls with | .req => 0 | .rsp => 1 | .out => 2 | .rcv => 3) * 2 ^ 10 +
    min f.laps 7 * 2 ^ 12 + f.pair.toNat * 2 ^ 15 + f.hopseq.toNat * 2 ^ 17

/-- The CRC of a flit (R267): header bytes, payload bytes, route word bytes. -/
def flitCrc (header : BitVec 96) (payload : Line) (f : Flit) : BitVec 32 :=
  crc32c (bytesOf header.toNat 12 ++ bytesOf payload.toNat 64 ++ bytesOf f.route 3)
/-- The CRC that a flit is to carry. -/
def Flit.check (f : Flit) : BitVec 32 := flitCrc f.hdr.encode f.payload f

-- ## Lines

/-- Word k of a line. -/
def lineWord (l : Line) (k : Nat) : Word := l.extractLsb' (64 * k) 64
/-- The line with word k replaced. -/
def setLineWord (l : Line) (k : Nat) (w : Word) : Line :=
  (l &&& ~~~((0xFFFFFFFFFFFFFFFF : Line) <<< (64 * k))) ||| (w.setWidth 512 <<< (64 * k))
/-- Byte k of a 64-bit mask spread over a line's bits (R72). -/
def maskBits (m : Word) : Nat → Line
  | 0 => 0
  | k + 1 => maskBits m k ||| (if m.getLsbD k then (0xFF : Line) <<< (8 * k) else 0)
/-- The masked bytes of one line over another (R72, R315). -/
def mergeLine (old new : Line) (m : Word) : Line :=
  let b := maskBits m 64
  (old &&& ~~~b) ||| (new &&& b)

/-- The old value and the new line of an atomic (R77, R174): OP, QW, operand bytes, old line. -/
def atomicResult (op qw : Nat) (arg old : Line) : Line × Line :=
  let t := lineWord old qw
  let a := lineWord arg 0
  match op with
  | 0 => (t.setWidth 512, setLineWord old qw (t + a))
  | 1 => (t.setWidth 512, setLineWord old qw a)
  | 2 => (t.setWidth 512, setLineWord old qw (t ||| a))
  | 3 => (t.setWidth 512, setLineWord old qw (t &&& a))
  | 4 => (t.setWidth 512, if t = a then setLineWord old qw (lineWord arg 1) else old)
  | _ =>
    let t2 := lineWord old (qw + 1)
    let o : Line := t.setWidth 512 ||| (t2.setWidth 512 <<< 64)
    (o, if t = a ∧ t2 = lineWord arg 1 then setLineWord (setLineWord old qw (lineWord arg 2)) (qw + 1) (lineWord arg 3)
        else old)

end Sys2Proof.Machine
end

