-- ==== Sys2Proof/Machine/Ops.lean ====
section
/-! DEFINITION. The named operations every meaning is built from: reading and changing one channel or tile, the arrays and
their code blocks (R307 to R317), counters (R431 to R436), records (R377 to R389), the journal (R364 to R368), and the
host-port response (R41). -/

namespace Sys2Proof.Machine

-- ## Channels and tiles

/-- Channel c. -/
def ch (s : State) (c : Ch) : Channel := s.chans[c]
/-- Change channel c and nothing else (R9). -/
def modCh (c : Ch) (f : Channel → Channel) (s : State) : State := { s with chans := s.chans.set c (f s.chans[c]) }
/-- Tile t of channel c. -/
def tile (s : State) (c : Ch) (t : TileId) : Tile := (ch s c).tiles[t]
/-- Change tile t of channel c. -/
def modTile (c : Ch) (t : TileId) (f : Tile → Tile) (s : State) : State :=
  modCh c (fun k => { k with tiles := k.tiles.set t (f k.tiles[t]) }) s
/-- The 16 channels in order. -/
def allCh : List Ch := List.finRange 16
/-- The 16 tiles in order. -/
def allTiles : List TileId := List.finRange 16
/-- The home tile of a line as a tile number (R13). -/
def home (l : LAddr) : TileId := Fin.ofNat 16 (tileOf l)
/-- A tile number from a count. -/
def tileN (n : Nat) : TileId := Fin.ofNat 16 n
/-- A channel number from a count. -/
def chN (n : Nat) : Ch := Fin.ofNat 16 n

/-- Apply a change for each element of a list, in order. -/
def forEach {α : Type} (l : List α) (f : α → State → State) (s : State) : State := l.foldl (fun s a => f a s) s

/-- A channel that serves its registers: ON, DRAINING or QUIESCED (fenced included). -/
def Pwr.serving : Pwr → Bool
  | .on | .draining | .quiesced => true
  | _ => false
/-- The codes of Table 17-2. -/
def Pwr.code : Pwr → Nat
  | .on => 0 | .draining => 1 | .quiesced => 2 | .gated => 3 | .off => 4 | .reset => 5

/-- The block is out of reset (R48). -/
def running (s : State) : Bool := s.coldN && s.warmN
/-- The channel serves: it is ON, DRAINING or QUIESCED, and the block is out of reset. -/
def serving (s : State) (c : Ch) : Bool := running s && (ch s c).pwr.serving

/-- Requests in a port's handoff buffer (Tables 2-2, 21-3): the lines of one request, which share its age stamp, are one. -/
def handoffs (k : Channel) (p : Port) : Nat :=
  ((k.hoff.filter (·.port == some p)).map (·.age)).eraseDups.length
/-- PWR_CTL.DD_SETTLE as applied. -/
def ddSettle (s : State) : Nat := max 0x10 (cfB s 9 0x50 16 16)
/-- DD_SETTLE ticks, as applied now, have passed since the channel's last MEM_RD_DD (R203, R422). -/
def ddPassed (s : State) (c : Ch) : Bool := decide ((ch s c).lastDd + ddSettle s ≤ s.tick)
/-- MP_DD.SETTLED (R203): a DD_SETTLE that is raised is waited for again. -/
def ddSettled (s : State) (c : Ch) : Bool := (ch s c).settled && ddPassed s c

-- ## CT fields

/-- Add to a CT field of n bits at bit lo, wrapping modulo its width (R438). -/
def ctAdd (a lo n amt : Nat) (s : State) : State :=
  let w := (ctWord s a).toNat
  let f := w / 2 ^ lo % 2 ^ n
  { s with ct := Tab.put s.ct a (BitVec.ofNat 64 (w - f * 2 ^ lo + (f + amt) % 2 ^ n * 2 ^ lo)) }
/-- Add to a CT field that saturates (R350, R393). -/
def ctAddSat (a lo n amt : Nat) (s : State) : State :=
  let w := (ctWord s a).toNat
  let f := w / 2 ^ lo % 2 ^ n
  { s with ct := Tab.put s.ct a (BitVec.ofNat 64 (w - f * 2 ^ lo + min (f + amt) (2 ^ n - 1) * 2 ^ lo)) }

/-- PG_REJECT.BUSY, REFUSED, DENIED and LOCKED by their first bit (Table 14-1). -/
def rejBusy : Nat := 0
/-- PG_REJECT.REFUSED. -/
def rejRefused : Nat := 16
/-- PG_REJECT.DENIED. -/
def rejDenied : Nat := 32
/-- PG_REJECT.LOCKED. -/
def rejLocked : Nat := 48
/-- Count in a field of the PG_REJECT of the page that holds address a. -/
def reject (a field : Nat) (s : State) : State := ctAddSat (a / 0x1000 * 0x1000 + 0x30) field 16 1 s

-- ## Array memory (Table 12-1)

/-- The key of a row: array code of Table 21-7, tile, row. -/
def rowKey (arr t row : Nat) : Nat := (arr * 16 + t) * 8192 + row
/-- Word w of a row as stored; a row whose valid bit is 0 reads zero (R317). -/
def memWord (k : Channel) (arr t row w : Nat) : Word := Tab.word k.mem (rowKey arr t row * 8 + w)
/-- The eight words of a row. -/
def rowWords (k : Channel) (arr t row : Nat) : List Word := (List.range 8).map (memWord k arr t row)
/-- Clear a row (R318). -/
def clearRows (p : Nat → Bool) (k : Channel) : Channel :=
  { k with
    mem := k.mem.filter fun e => !p (e.1 / 8 / 8192 / 16)
    rows := k.rows.filter fun e => !p (e.1 / 8192 / 16)
    qBad := if p 9 then [] else k.qBad }

/-- XOR of the bits of a word. -/
def parity (w : Word) : Bool := (List.range 64).foldl (fun p i => xor p (w.getLsbD i)) false
/-- Number of ones of a number below 2^n. -/
def popcount (v n : Nat) : Nat := (List.range n).foldl (fun c i => c + (v.testBit i).toNat) 0
/-- The row bits of eight words (R307). -/
def rowBits (ws : List Word) : BitVec 8 :=
  BitVec.ofNat 8 ((List.range 8).foldl (fun n i => n + (parity (ws.getD i 0)).toNat * 2 ^ i) 0)
/-- The column bits of eight words (R307). -/
def colBits (ws : List Word) : Word := ws.foldl (· ^^^ ·) 0

/-- What a read of a code block finds (Table 12-2). -/
inductive Outcome3 | good | mended (word : Option Nat) (bit : Nat) | bad
  deriving DecidableEq, Repr

/-- The row-and-column decode (Table 12-2) of the bits that differ. -/
def decodeBlock (r : BitVec 8) (c : Word) : Outcome3 :=
  let nr := popcount r.toNat 8
  let nc := popcount c.toNat 64
  if nr = 0 ∧ nc = 0 then .good
  else if nr = 1 ∧ nc = 1 then .mended (some (Nat.log2 r.toNat)) (Nat.log2 c.toNat)
  else if nr = 1 ∧ nc = 0 then .mended none 0
  else if nr = 0 ∧ nc = 1 then .mended none 0
  else .bad

/-- What a read of a row finds; a row whose valid bit is 0 has no error (R317). -/
def rowOutcome (k : Channel) (key : Nat) : Outcome3 :=
  match Tab.get? k.rows key with
  | none => .good
  | some m => decodeBlock (m.row.setWidth 8) m.col
/-- The memory of a channel with a row as a read corrects it (R308). -/
def mendedMem (k : Channel) (key : Nat) : Tab Word :=
  match rowOutcome k key with
  | .mended (some i) b => Tab.putWord k.mem (key * 8 + i) (Tab.word k.mem (key * 8 + i) ^^^ (1#64 <<< b))
  | _ => k.mem
/-- Write a word in normal service: the block is read with its correction and written back with the new word, so the row
becomes valid, its check bits match, its planted mark goes (R307, R309, R317, R322). -/
def putMem (arr t row w : Nat) (v : Word) (k : Channel) : Channel :=
  { k with
    mem := Tab.putWord (mendedMem k (rowKey arr t row)) (rowKey arr t row * 8 + w) v
    rows := Tab.put k.rows (rowKey arr t row) ⟨0, 0, false⟩ }
/-- The row is marked planted (R322). -/
def rowPlanted (k : Channel) (key : Nat) : Bool :=
  match Tab.get? k.rows key with
  | none => false
  | some m => m.planted

/-- Rewrite a row with its corrected content (R309). -/
def mendRow (key : Nat) (word : Option Nat) (bit : Nat) (k : Channel) : Channel :=
  match word with
  | none => { k with rows := Tab.put k.rows key ⟨0, 0, false⟩ }
  | some i =>
    { k with
      mem := Tab.putWord k.mem (key * 8 + i) (Tab.word k.mem (key * 8 + i) ^^^ (1#64 <<< bit))
      rows := Tab.put k.rows key ⟨0, 0, false⟩ }
/-- Make a row all zero with valid check bits. -/
def zeroRow (key : Nat) (k : Channel) : Channel :=
  { k with
    mem := (List.range 8).foldl (fun m w => Tab.drop m (key * 8 + w)) k.mem
    rows := Tab.put k.rows key ⟨0, 0, false⟩ }

-- ## Counters (18)

/-- What an occurrence belongs to: the request's instance and subject word, and a tile (R432, R436). -/
structure Occ where
  inst : Option InstId := none
  tile : Option TileId := none
  subj : Option Word := none
  deriving DecidableEq, Repr

/-- The subject word S (R388). -/
def subject (l : LAddr) (a : AgentId) (i : InstId) : Word :=
  BitVec.ofNat 64 (l.toNat + a.toNat * 2 ^ 46 + i.toNat * 2 ^ 54)

/-- An occurrence of a request. -/
def occOf (l : LAddr) (a : AgentId) (i : InstId) : Occ := ⟨some i, some (home l), some (subject l a i)⟩
/-- An occurrence of a tile and of no request. -/
def occTile (t : TileId) : Occ := ⟨none, some t, none⟩

/-- The word CNT_CFG_k of channel c. -/
def cntCfg (s : State) (c : Ch) (k : Nat) : Word := appWord s (addrC c 0xF (0x40 + 16 * k))
/-- The word CNT_VAL_k of channel c. -/
def cntVal (s : State) (c : Ch) (k : Nat) : Word := ctWord s (addrC c 0xF (0x48 + 16 * k))

/-- The counters of a channel are frozen globally (R434). -/
def gFrozen (s : State) (c : Ch) : Bool := (cfB s 2 0x50 0 16).testBit c
/-- The number of an instant: a PCLK edge, or the end of a REFCLK tick. -/
def instant (s : State) : Nat := s.tick + s.pclk
/-- Counter k has wrapped on the present instant. -/
def wrapsNow (s : State) (c : Ch) (k : Nat) : Bool :=
  (ch s c).owed.lastAt == instant s && (ch s c).owed.wrapped.contains k
/-- The counters of a channel are frozen locally (R434); a wrap freezes nothing on its own instant, whose occurrences are added
together (R431). -/
def lFrozen (s : State) (c : Ch) : Bool :=
  (List.range 16).any fun k => (cntCfg s c k).getLsbD 12 && (cntVal s c k).getLsbD 48 && !wrapsNow s c k

/-- An occurrence passes the filters of a counter (R432). -/
def passes (cfg : Word) (o : Occ) : Bool :=
  (match o.inst with
    | none => !cfg.getLsbD 24
    | some i => !cfg.getLsbD 24 || bits cfg 16 8 == i.toNat) &&
  (match o.tile with | none => true | some t => cfg.getLsbD (32 + t))

/-- Counter k selects this event with one of the qualifiers that hold of it, where it has any, and lets the occurrence pass
(R431 to R433). -/
def selects (cfg : Word) (ev : Nat) (qs : List Nat) (o : Occ) : Bool :=
  cfg.getLsbD 7 && bits cfg 0 7 == ev && (qs.isEmpty || bits cfg 8 3 == 7 || qs.contains (bits cfg 8 3)) && passes cfg o

-- ## Records (15)

/-- Depth of a sub-buffer from its DEPTH_p code (R378). -/
def depthOf (code : Nat) : Nat := if code = 0 then 0 else 2 ^ (min code 13 - 1)
/-- The address of a queue's register block (Table 15-4). -/
def queueAddr (c : Ch) (q : Nat) : Nat := addrC c (0x20 + q / 16) (0x40 + 0x50 * (q % 16))
/-- Depth and base of sub-buffer p of queue q from given Q_CFG and Q_BASE words (R378). -/
def subShare (cfg base : Word) (p : Nat) : Nat × Nat :=
  let d := depthOf (bits cfg (4 * p) 4)
  (d, if d = 0 then 0 else bits base (14 * p) 14 / d * d)
/-- Depth and base in force. -/
def share (s : State) (c : Ch) (q p : Nat) : Nat × Nat :=
  subShare (appWord s (queueAddr c q)) (appWord s (queueAddr c q + 8)) p
/-- Queue q. -/
def queueOf (k : Channel) (q : Nat) : Queue := Tab.getD k.queues q Queue.fresh
/-- Change queue q. -/
def modQueue (c : Ch) (q : Nat) (f : Queue → Queue) (s : State) : State :=
  modCh c (fun k => { k with queues := Tab.put k.queues q (f (queueOf k q)) }) s
/-- Records held by a sub-buffer (R378). -/
def SubBuf.count (b : SubBuf) : Nat := (b.wr + 8192 - b.rd) % 8192
/-- Sub-buffer p of a queue. -/
def Queue.at (q : Queue) (p : Nat) : SubBuf := q.sub[Fin.ofNat 4 p]
/-- Replace sub-buffer p. -/
def Queue.setSub (q : Queue) (p : Nat) (b : SubBuf) : Queue := { q with sub := q.sub.set (Fin.ofNat 4 p) b }

/-- Word w of pool slot n as written (truth); queue words are damaged apart, in qBad. -/
def poolWord (k : Channel) (n w : Nat) : Word := memWord k 9 0 (n % 16384 / 2) (n % 2 * 4 + w)
/-- Write the words of a pool slot in normal service under the word code in force (R311, R312); the first write of a row writes
all its words (R317). -/
def putSlot (s : State) (c : Ch) (n : Nat) (ws : List Word) (k : Channel) : Channel :=
  let row := n % 16384 / 2
  let par := cfC s c 0xC 0x40 1 1
  let modes := Tab.getD k.rows (rowKey 9 0 row) ⟨if par = 1 then ~~~0 else 0, 0, false⟩
  let w0 := n % 2 * 4
  let newModes := (List.range 4).foldl
    (fun (m : BitVec 24) w => (m &&& ~~~(7#24 <<< (3 * (w0 + w)))) ||| (BitVec.ofNat 24 (7 * par) <<< (3 * (w0 + w)))) modes.row
  { k with
    mem := (List.range 4).foldl (fun m w => Tab.putWord m (rowKey 9 0 row * 8 + w0 + w) (ws.getD w 0)) k.mem
    rows := Tab.put k.rows (rowKey 9 0 row) ⟨newModes, 0, false⟩
    qBad := (List.range 4).foldl (fun b w => Tab.drop b (row * 8 + w0 + w)) k.qBad }

/-- Word 0 of a record (Table 15-1), VALID clear until a pop sets it. -/
def recWord0 (s : State) (chan typ len : Nat) (planted : Bool) : Word :=
  BitVec.ofNat 64 (s.tick % 2 ^ 40 + chan * 2 ^ 40 + typ * 2 ^ 48 + (len - 1) * 2 ^ 56 + planted.toNat * 2 ^ 60)

/-- Write a record with a given CHAN field to sub-buffer p of queue q (R379); a channel in reset, GATED or OFF loses it (R387). -/
def recordAs (chan : Nat) (c : Ch) (q p typ : Nat) (ws : List Word) (planted : Bool) (s : State) : State :=
  if !serving s c then s
  else
    let d := (share s c q p).1
    let b := (share s c q p).2
    let lost := queueAddr c q + 0x38
    if d = 0 then ctAddSat lost (16 * p) 16 1 s
    else
      let sb := (queueOf (ch s c) q).at p
      let full := decide (d ≤ sb.count)
      let s := if full then ctAddSat lost (16 * p) 16 1 s else s
      let sb := if full then { sb with rd := (sb.rd + 1) % 8192 } else sb
      let slot := b + sb.wr % d
      let s := modCh c (putSlot s c slot (recWord0 s chan typ (ws.length + 1) planted :: ws)) s
      modQueue c q (fun q => q.setSub p { sb with wr := (sb.wr + 1) % 8192 }) s

/-- Write a record of the channel that its queue belongs to. -/
def record (c : Ch) (q p typ : Nat) (ws : List Word) (planted : Bool) (s : State) : State :=
  recordAs c c q p typ ws planted s

/-- The lowest-numbered channel that is ON, the destination of block-level records (R356, R389). -/
def lowestOn (s : State) : Option Ch := allCh.find? fun c => (ch s c).pwr == .on

/-- A block-level record under the rule of R356: queue 9 of the lowest-numbered channel that is ON, or nowhere. -/
def recordBlock (chan p typ : Nat) (ws : List Word) (s : State) : State :=
  match lowestOn s with
  | some c => recordAs chan c 9 p typ ws false s
  | none => s

/-- Word 1 of a COUNTER_SAMPLE record (Table 15-2). -/
def sampleWord (k ev : Nat) : Word := BitVec.ofNat 64 (k + ev * 2 ^ 4)

/-- A sample joins those owed, after those of earlier instants and of lower counters (R436). -/
def Owed.join (x : Sample) (o : Owed) : Owed :=
  let before (y : Sample) : Bool := decide (y.wrapAt < x.wrapAt ∨ y.counter ≤ x.counter)
  { o with samples := o.samples.takeWhile before ++ x :: o.samples.dropWhile before }
/-- Counter k wraps on an instant. -/
def Owed.wrap (k now : Nat) (o : Owed) : Owed :=
  { o with lastAt := now, wrapped := if o.lastAt = now then k :: o.wrapped else [k] }

/-- Add to one counter (R431, R435); a wrap of a sampling counter owes a record, whose word 2 is known where the occurrence has a
subject (R436). -/
def bump (c : Ch) (ev amt : Nat) (o : Occ) (k : Nat) (s : State) : State :=
  let v := (cntVal s c k).toNat
  let n := v % 2 ^ 48 + amt
  let wrap := decide (2 ^ 48 ≤ n)
  let w := BitVec.ofNat 64 (n % 2 ^ 48 + (if wrap then 1 else v / 2 ^ 48 % 2) * 2 ^ 48)
  let s := { s with ct := Tab.put s.ct (addrC c 0xF (0x48 + 16 * k)) w }
  if wrap then
    let now := instant s
    let owes (x : Owed) : Owed := if (cntCfg s c k).getLsbD 11 then x.join ⟨k, ev, 64, now, o.subj⟩ else x
    modCh c (fun x => { x with owed := owes (x.owed.wrap k now) }) s
  else s

/-- The samples whose word 2 is known are written as their instant ends, in order (R436). -/
def writeSamples (c : Ch) (s : State) : State :=
  let l := (ch s c).owed.samples
  let s := modCh c (fun k => { k with owed := { k.owed with samples := l.filter (·.subj.isNone) } }) s
  forEach l (fun x s => match x.subj with
    | some w => record c 12 0 0x1D [sampleWord x.counter x.event, w] false s
    | none => s) s

/-- An occurrence of an event with a weight and the qualifiers that hold of it (R431, R433): every counter that selects it adds the
weight once, unless frozen (R434). -/
def countAll (c : Ch) (ev : Nat) (qs : List Nat) (amt : Nat) (o : Occ) (s : State) : State :=
  if gFrozen s c || lFrozen s c then s
  else ((List.range 16).filter fun k => selects (cntCfg s c k) ev qs o).foldl (fun s k => bump c ev amt o k s) s
/-- The same with at most one qualifier. -/
def count (c : Ch) (ev : Nat) (q : Option Nat) (amt : Nat) (o : Occ) (s : State) : State := countAll c ev q.toList amt o s

/-- One occurrence of an event. -/
def ev (c : Ch) (e : Nat) (q : Option Nat) (o : Occ) (s : State) : State := count c e q 1 o s

/-- A RETRY is counted (0x24): once, with its REASON, and with 4 where it has ANCHOR 1 (R433). -/
def retryEvent (c : Ch) (reason : Nat) (anchor : Bool) (o : Occ) (s : State) : State :=
  countAll c 0x24 (reason :: if anchor then [4] else []) 1 o s

-- ## Integrity counts (R309, R310, R321)

/-- CAPACITY of gauge g. -/
def gaugeCap (s : State) (c : Ch) (g : Nat) : Nat := atLeast1 (cfC s c 0xC (0x50 + 8 * g) 16 16)
/-- A correctable error of source g, in a tile's arrays or in no tile: counted, and the gauge rises (R321). -/
def correctable (c : Ch) (g : Nat) (t : Option TileId) (planted : Bool) (s : State) : State :=
  let o : Occ := ⟨none, t, none⟩
  let s := ev c 0x4A (some g) o s
  let s := if planted then ev c 0x4F none o s else s
  let cap := gaugeCap s c g
  let l := (ch s c).gauges[Fin.ofNat 7 g]
  let s := modCh c (fun k => { k with
    gauges := k.gauges.set (Fin.ofNat 7 g) (min (l + 1) cap)
    leakAt := if l = 0 then k.leakAt.set (Fin.ofNat 7 g) s.tick else k.leakAt }) s
  if l + 1 = cap then
    record c 7 2 0x12 [BitVec.ofNat 64 (g + cap * 8)] planted s
  else s
/-- An uncorrectable block of source g: counted, with its integrity record (R310). -/
def uncorrectable (c : Ch) (g t row action : Nat) (line : Word) (planted : Bool) (s : State) : State :=
  let o : Occ := ⟨none, if g ≤ 3 then some (Fin.ofNat 16 t) else none, none⟩
  let s := ev c 0x4B (some g) o s
  let s := if planted then ev c 0x4F none o s else s
  record c 7 2 0x11 [line, BitVec.ofNat 64 (g + t * 2 ^ 4 + row * 2 ^ 8 + action * 2 ^ 24)] planted s

-- ## The journal (14)

/-- Journal slot of a sequence number (R368). -/
def jSlot (seq : Nat) : Nat := seq % 65536
/-- The entry of a sequence number, if the journal still holds it. -/
def jEntry (s : State) (seq : Nat) : Option JEntry :=
  match Tab.get? s.jrn (jSlot seq) with
  | some e => if e.seq = seq then some e else none
  | none => none

/-- Write a journal slot; its words take the code in force (R312). -/
def jPut (slot : Nat) (e : JEntry) (s : State) : State :=
  { s with
    jrn := Tab.put s.jrn slot { e with parity := cfB s 0 0x80 0 1 == 1 }
    jrnBad := (List.range 4).foldl (fun b w => Tab.drop b (slot * 4 + w)) s.jrnBad }

/-- Count the entry that accepting the next command overwrites (R368). -/
def jLost (s : State) : State :=
  match Tab.get? s.jrn (jSlot s.jrnNext) with
  | none => s
  | some e =>
    let s := ctAdd 0x30C8 0 48 1 s
    if e.state.isOpen then ctAddSat 0x30C8 48 16 1 s else s

/-- Accept a command of the CM register at address a: sequence number, journal entry, read-back (R364, R367, R368). -/
def jAccept (ctx : Ctx) (a cmd chan : Nat) (arg : Word) (st : JState) (s : State) : State :=
  let n := s.jrnNext
  let s := jLost s
  let e : JEntry := ⟨n, st, ctx, 0, BitVec.ofNat 12 cmd, chan, 0, arg, s.tick, 0, false⟩
  let s := jPut (jSlot n) e s
  { s with jrnNext := n + 1, cmSeq := Tab.put s.cmSeq a n, jrnOpen := s.jrnOpen ++ [e] }

/-- Move an open entry to another state; an ended entry stays as it is (Table 14-3). -/
def jSet (seq : Nat) (st : JState) (s : State) : State :=
  let s := { s with jrnOpen := s.jrnOpen.map fun e => if e.seq = seq then { e with state := st } else e }
  match jEntry s seq with
  | none => s
  | some e => if e.state.isOpen then jPut (jSlot seq) { e with state := st } s else s

/-- End an open entry: DONE or FAILED with RESULT and DETAIL; ELAPSED counts to this edge (R475, Table 14-6). -/
def jEnd (seq : Nat) (st : JState) (result : Nat) (detail : Nat) (s : State) : State :=
  let s := { s with jrnOpen := s.jrnOpen.filter (·.seq != seq) }
  match jEntry s seq with
  | none => s
  | some e =>
    if e.state.isOpen then
      jPut (jSlot seq)
        { e with state := st, result := BitVec.ofNat 8 result, detail := BitVec.ofNat 44 detail
                 elapsed := s.tick - e.tAccept } s
    else s

/-- The open command of a sequence number, whether or not the journal still holds its entry (R368). -/
def openCmd (s : State) (seq : Nat) : Option JEntry := s.jrnOpen.find? (·.seq == seq)
/-- The last command of the CM register at address a has not ended (Table 14-4, row 2). -/
def cmOpen (s : State) (a : Nat) : Bool := (Tab.get? s.cmSeq a).any fun n => (openCmd s n).isSome

/-- What opens anew has held on no edge yet (R475). -/
def unripe (r : Ripe) (s : State) : State := { s with ripe := s.ripe.filter (· != r) }

-- ## Host-port answers (R41)

/-- The latest response of the host port. -/
def State.rsp (s : State) : Option Response := s.rspQ.getLast?
/-- A response is sent (R40): it waits behind those before it until the host takes it. -/
def sendRsp (r : Response) (s : State) : State := { s with rspQ := s.rspQ ++ [r] }
/-- HA_HP_REQ_READY is high: the block is out of reset, and fewer than 8 transactions are open (R40). -/
def hpReady (s : State) : Bool := running s && decide (s.rspQ.length < 8)
/-- OK with data. -/
def respond (data : Word) (s : State) : State := sendRsp ⟨0, data⟩ s
/-- DENIED, counted in the page's PG_REJECT. -/
def denied (a : Nat) (s : State) : State := sendRsp ⟨1, 0⟩ (reject a rejDenied s)
/-- DECODE. -/
def decodeErr (s : State) : State := sendRsp ⟨2, 0⟩ s
/-- UNAVAIL. -/
def unavail (s : State) : State := sendRsp ⟨3, 0⟩ s
/-- A command rejected as busy: OK, counted (R365). -/
def busy (a : Nat) (s : State) : State := respond 0 (reject a rejBusy s)
/-- A command refused: OK, counted (R365). -/
def refuse (a : Nat) (s : State) : State := respond 0 (reject a rejRefused s)

/-- The context may read a page (R351). -/
def mayRead (s : State) (ctx : Ctx) (base : Nat) : Bool :=
  ctx == 0 || (appWord s (base + 0x10)).getLsbD (16 + ctx.toNat)
/-- The context may write a page (R351). -/
def mayWrite (s : State) (ctx : Ctx) (base : Nat) : Bool :=
  ctx == 0 || (appWord s (base + 0x10)).getLsbD ctx.toNat

/-- A page of a channel that is in reset, GATED or OFF answers UNAVAIL, but for its control page (R41, R464). -/
def pageDown (s : State) : Page → Bool
  | .blk _ => false
  | .chan c p => p != 0 && !(ch s (chN c)).pwr.serving
  | .raw c => !(ch s (chN c)).pwr.serving
  | .pool c => !(ch s (chN c)).pwr.serving

/-- What the host port checks of every write before the register's own rules (R40, R41, R351); none: the write goes on. An
access that finds HA_HP_REQ_READY low is not accepted (assumption 60). An access that both UNAVAIL and DENIED fit is answered
UNAVAIL and counts no denial (DESIGN CHOICE, assumption 61). -/
def hostGuard (s : State) (ctx : Ctx) (a : Nat) : Option State :=
  if !hpReady s then some s
  else if a % 8 ≠ 0 then some (decodeErr s)
  else
    match pageOf a with
    | none => some (decodeErr s)
    | some pg =>
      if pageDown s pg then some (unavail s)
      else if !mayWrite s ctx pg.base || (viewOff a == 0x10 && ctx != 0) then some (denied a s)
      else none

/-- A command write to the CM register at address a: the host guard, then the register's own rule. -/
def hostCmd (ctx : Ctx) (a : Nat) (act : State → State) (s : State) : State :=
  match hostGuard s ctx a with
  | some s' => s'
  | none => act s

end Sys2Proof.Machine
end

