-- ==== Sys2Proof/Machine/Lines.lean ====
section
/-! DEFINITION. What holds a line (R101, R178): tracker entries, evictions, maintenance and reclaim; the waiting chain; the
shares of a tile's tracker (R209 to R212); and the agent table, match table and instance states as a channel applies
them. -/

namespace Sys2Proof.Machine

-- ## Tracker entries

/-- Entry n of a tile. -/
def entry? (t : Tile) (n : Nat) : Option Entry := Tab.get? t.ents n
/-- GEN of an entry or slot of a tile (R208, R81). -/
def genOf (x : Tile) (n : Nat) : BitVec 4 := Tab.getD x.gens n 0
/-- The entry a home tag names, if its generation is current (R81). -/
def tagged (k : Channel) (h : Tag) : Option (Nat × Nat × Entry) :=
  let t := tagTile h
  let n := tagEntry h
  let x := k.tiles[tileN t]
  if n < 160 ∧ genOf x n = tagGen h then (entry? x n).map fun e => (t, n, e) else none
/-- The slot a home tag names (R81). -/
def taggedSlot (k : Channel) (h : Tag) : Option (Nat × Nat × NSlot) :=
  let t := tagTile h
  let n := tagEntry h
  let x := k.tiles[tileN t]
  if 160 ≤ n ∧ genOf x n = tagGen h then (Tab.get? x.slots n).map fun v => (t, n, v) else none

-- ## What an occurrence belongs to (R432; DEDUCED, assumption 79)

/-- The entry belongs to a request in the line's chain: a flow or a clear-sky write (R178). -/
def Entry.isRequest (e : Entry) : Bool := e.kind == .request || e.kind == .anchored || e.kind == .clearSky
/-- The work of an entry: its request, or no request in its tile. -/
def occE (t : TileId) (e : Entry) : Occ := if e.isRequest then occOf e.laddr e.agent e.inst else occTile t
/-- The entry that is named, if it is in use, or no request in the home tile of a line. -/
def occEnt (k : Channel) (ent : Option (Nat × Nat)) (l : LAddr) : Occ :=
  match ent.bind fun x => (entry? k.tiles[tileN x.1] x.2).map fun e => (x.1, e) with
  | some (t, e) => occE (tileN t) e
  | none => occTile (home l)
/-- What the home tag of a packet for a line names: an entry, or a non-tracker slot with its request or its prefetch. -/
def occTag (k : Channel) (h : Tag) (l : LAddr) : Occ :=
  match tagged k h, taggedSlot k h with
  | some (t, _, e), _ => occE (tileN t) e
  | none, some (t, _, v) => if v.prefetch then occTile (tileN t) else occOf v.laddr v.agent v.inst
  | none, none => occTile (home l)
/-- A packet of an egress port. -/
def occPkt (k : Channel) (p : EgrPort) (x : EgrPkt) : Occ :=
  let h := x.hdr
  match p with
  | .vrs | .dout => occOf h.laddr h.agent h.inst
  | .sno => { occEnt k x.ent h.laddr with subj := some (subject h.laddr h.agent h.inst) }
  | .mrq =>
    if h.opcode == 0x39 then occOf h.laddr h.agent h.inst
    else if x.ent.isSome then occEnt k x.ent h.laddr else occTag k h.tag h.laddr

/-- Change entry n of tile t, if it is in use. -/
def modEntry (c : Ch) (t : TileId) (n : Nat) (f : Entry → Entry) (s : State) : State :=
  match entry? (tile s c t) n with
  | none => s
  | some e => modTile c t (fun x => { x with ents := Tab.put x.ents n (f e) }) s

/-- The tick from which an entry counts as ready again (R238). -/
def wake (tick : Nat) (e : Entry) : Entry := if e.waiting then { e with readyAt := tick } else e

/-- A recovery holds a line until every answer for it has arrived and its data is placed, in memory too where it goes there: the
SDATA of its holders, and the writes of them that it absorbed (R154, R337). -/
def Entry.recovers (t : Tile) (n : Nat) (e : Entry) (l : LAddr) : Bool :=
  let mine := e.snoops.filter fun p => p.laddr == l
  let gave (p : Snp) : Bool := p.wrote || p.asDead || p.ans.any (·.hasData)
  mine.any (fun p => p.ans.isNone || p.out || p.dataDue || p.sdata.isSome) ||
    e.toPlace.any (·.1 == l) || e.absPtl.any (·.1 == l) || (e.pend != 0 && mine.any gave) ||
    t.ents.any fun y => y.2.absorbedBy == some n && y.2.laddr == l
/-- Entry n of tile t holds a line open: an eviction the lines its victim covered, a recovery the lines it recovers, each until
it is released, and every other entry its own (R142, R337). -/
def Entry.covers (t : Tile) (n : Nat) (e : Entry) (l : LAddr) : Bool :=
  match e.work with
  | .eviction => if e.region then regionOf e.laddr == regionOf l else e.laddr == l || e.snoops.any (·.laddr == l)
  | .recovery => e.recovers t n l
  | _ => e.laddr == l

/-- The entry holds its line as maintenance, reclaim or recovery do: a request for the line gets RETRY REASON 1 (R178). -/
def Entry.isMaint (e : Entry) : Bool :=
  match e.work with
  | .recovery | .maint _ | .reclaim => true
  | _ => false

/-- The entry holds a write that the clear-sky path decided (R107), in the general pool or in the reserve. -/
def Entry.clearSkyWrite (e : Entry) : Bool := e.kind == .clearSky || e.work == .clearSky

/-- Entries of a channel's tile that cover a line. -/
def entriesOn (t : Tile) (l : LAddr) : List (Nat × Entry) := t.ents.filter fun x => x.2.covers t x.1 l

/-- A page retirement has dealt with the line: it holds it, whatever requests are older, until the page is retired (R323). -/
def pageDone (j : Job) (l : LAddr) : Bool :=
  match j.kind with
  | .retirePage p => regionOf l == p && decide (lineInRegion l < (j.tiles[home l]).pos)
  | _ => false
/-- A maintenance job holds the line (R254): since which acceptance. -/
def jobHold (k : Channel) (l : LAddr) : Option Nat :=
  k.jobs.findSome? fun j =>
    match (j.tiles.toList).findSome? fun x => (x.line.filter fun y => y.1 == l).map (·.2) with
    | some since => some since
    | none => if pageDone j l then some 0 else none

/-- The line is held by maintenance, reclaim or recovery (R101). -/
def maintHeld (k : Channel) (l : LAddr) : Bool :=
  (jobHold k l).isSome || (entriesOn k.tiles[home l] l).any fun x => x.2.isMaint

/-- An older request for the line waits in a handoff buffer (R101). -/
def waiterFor (k : Channel) (l : LAddr) : Bool := k.hoff.any fun w => w.line == l

/-- A tracker entry is open for the line. -/
def entryOpen (k : Channel) (l : LAddr) : Bool := !(entriesOn k.tiles[home l] l).isEmpty

/-- The channel's drain holds every line for requests from IRQ (R420). -/
def drainHold (k : Channel) : Bool := k.pwr == .draining

/-- The open-line check without the same-line collision (R101). -/
def openLine (k : Channel) (l : LAddr) : Bool := entryOpen k l || waiterFor k l || maintHeld k l

/-- The same-line collision (R101): an older clear-sky update of the line has not landed on this edge. -/
def collision (k : Channel) (l : LAddr) (edge : Nat) : Bool :=
  k.landings.any fun d => d.line == l && decide (edge < d.edge)

/-- The open-line hit (R101): the line is held, or an older clear-sky update of it has not landed. -/
def lineOpen (s : State) (c : Ch) (l : LAddr) : Bool := openLine (ch s c) l || collision (ch s c) l s.pclk

/-- The entry stands in its line's chain: an absorbed write has left it (R185). -/
def Entry.inChain (e : Entry) : Bool := e.isRequest && e.absorbedBy.isNone

/-- The flow of a pool access (R474): a request that came through no port. -/
def Entry.pool (e : Entry) : Bool := e.op.isSome && e.port.isNone
/-- The agent a flow runs for; a pool access has none. -/
def Entry.who (e : Entry) : Option AgentId := if e.pool then none else some e.agent

/-- Members of a line's chain in its order (R177, R214): requests by acceptance, but for a raw write of NEXT (R322). -/
def chain (t : Tile) (l : LAddr) : List (Nat × Entry) :=
  (t.ents.filter fun x => x.2.inChain && x.2.laddr == l).mergeSort fun x y => x.2.seat ≤ y.2.seat

/-- NEXT of entry n (Table 8-1): the member after it in its chain, 0xFF for none. -/
def nextOf (t : Tile) (n : Nat) (e : Entry) : Nat :=
  match ((chain t e.laddr).dropWhile fun x => x.1 != n).drop 1 with
  | x :: _ => if e.inChain then x.1 else 0xFF
  | [] => 0xFF

/-- The place of a chain's member `m` is just after member `n`, or `n` is the last where `m` names none (R322): the waiting members
exchange their seats. A NEXT that names no waiting member of the chain changes nothing (DESIGN CHOICE, assumption 13). -/
def relink (n m : Nat) (l : LAddr) (x : Tile) : Tile :=
  let ms := (chain x l).filter fun y => !y.2.head
  let ids := ms.map (·.1)
  let order :=
    if m = 0xFF then ids.filter (· != n) ++ ids.filter (· == n)
    else if m = n || !ids.contains m then ids
    else
      let rest := ids.filter (· != m)
      if rest.contains n then rest.takeWhile (· != n) ++ n :: m :: (rest.dropWhile (· != n)).drop 1 else m :: rest
  let put (ents : Tab Entry) (y : Nat × Nat) : Tab Entry := match Tab.get? ents y.1 with
    | some e => Tab.put ents y.1 { e with seat := y.2 }
    | none => ents
  if (chain x l).any (·.1 == n) then { x with ents := (order.zip (ms.map (·.2.seat))).foldl put x.ents } else x

/-- Chain members that wait: request entries that are not heads (TR_POOL_ST.WAITERS). -/
def waiters (t : Tile) : Nat := (t.ents.filter fun x => x.2.inChain && !x.2.head).length

-- ## Shares (R209, R210)

/-- ANCHOR_RSV as applied (Table 7-8). -/
def anchorRsv (s : State) (c : Ch) : Nat := min 32 (max 8 (cfC s c 5 0x100 8 6))
/-- ANCHOR_LAPSE as applied. -/
def anchorLapse (s : State) (c : Ch) : Nat := max 0x100 (cfC s c 5 0x100 16 16)
/-- EVICT_MAX as applied (Table 5-6). -/
def evictMax (s : State) (c : Ch) : Nat := atLeast1 (cfC s c 4 0x40 8 4)
/-- EVICT_SNP_MAX as applied. -/
def evictSnpMax (s : State) (c : Ch) : Nat := atLeast1 (cfC s c 4 0x40 16 8)
/-- MIN_GUARD. -/
def minGuard (s : State) (c : Ch) : Nat := cfC s c 5 0x40 0 4
/-- TR_IQ_i.MAX as applied (R213). -/
def trMax (s : State) (c : Ch) (i : InstId) : Nat := min 2560 (cfC s c 6 (0x40 + 8 * i.toNat) 12 12)
/-- TR_IQ_i.MIN as applied (R213): a MIN above MAX is applied as MAX. -/
def trMin (s : State) (c : Ch) (i : InstId) : Nat := min (trMax s c i) (min 2560 (cfC s c 6 (0x40 + 8 * i.toNat) 0 12))

/-- Entries in use from the general pool (Table 8-2). -/
def genUsed (t : Tile) : Nat :=
  (t.ents.filter fun x => match x.2.kind with
    | .request | .clearSky => true
    | .background => !x.2.fromEvict
    | _ => false).length
/-- Entries in use from the anchor reserve. -/
def anchorUsed (t : Tile) : Nat := (t.ents.filter fun x => x.2.kind == .anchored).length
/-- Anchors bound in a tile. -/
def boundIn (k : Channel) (t : TileId) : Nat :=
  (k.anchors.filter fun x => x.2.bound.isSome && x.2.tile == t.val).length
/-- Evictions running in the tile (R143). -/
def evictUsed (t : Tile) : Nat := (t.ents.filter fun x => x.2.kind == .evict).length
/-- Entries in use from the eviction reserve: evictions, and recoveries that found the general pool empty (R210). -/
def evictTaken (t : Tile) : Nat := evictUsed t + (t.ents.filter (·.2.fromEvict)).length
/-- Free entries of the general pool (R209); 0 when reserves have surplus entries in use (R213), or bound above a lowered
ANCHOR_RSV (R194). -/
def genFree (s : State) (c : Ch) (t : TileId) : Nat :=
  let x := tile s c t
  (160 - max (anchorRsv s c) (anchorUsed x + boundIn (ch s c) t) - max (evictMax s c) (evictTaken x)) - genUsed x

/-- Entries charged to instance i in the channel (R211). -/
def trCount (k : Channel) (i : InstId) : Nat :=
  (k.tiles.toList).foldl (fun n t => n + (t.ents.filter fun x => x.2.isRequest && x.2.inst == i).length) 0
/-- Some instance of the channel is below its minimum (R212). -/
def anyBelow (s : State) (c : Ch) : Bool :=
  (List.range 241).any fun i => decide (trCount (ch s c) (BitVec.ofNat 8 i) < trMin s c (BitVec.ofNat 8 i))
/-- A background step of a tile still waits for its entry (R210): the line is the maintenance job's, the reclaim walk still has to
change it, or the recovery is the stewards' action. -/
def bgLive (k : Channel) (t : TileId) (x : Work × LAddr) : Bool :=
  match x.1 with
  | .maint j => k.jobs.any fun y => y.id == j && (y.tiles[t]).line.any (·.1 == x.2)
  | .reclaim => (k.walks.any fun w => decide (0 < w.left[t])) && !openLine k x.2
  | .recovery => k.action.any fun a => match a with | .broadcast u _ _ => u == t.val | _ => false
  | _ => false
/-- The background steps that wait in a tile, oldest first. -/
def bgQueue (k : Channel) (t : TileId) : List (Work × LAddr × Bool) := k.tiles[t].bgWaits.filter fun x => bgLive k t (x.1, x.2.1)
/-- Free entries that have gone to background steps of the tile. -/
def bgGiven (k : Channel) (t : TileId) : Nat := ((bgQueue k t).filter (·.2.2)).length
/-- The step no longer waits, or waits anew behind the others. -/
def bgLess (k : Channel) (t : TileId) (x : Work × LAddr) : List (Work × LAddr × Bool) :=
  (bgQueue k t).filter fun y => (y.1, y.2.1) != x
/-- Free entries of a tile's general pool outside the guard of R212. -/
def genOpen (s : State) (c : Ch) (t : TileId) : Nat :=
  if anyBelow s c then genFree s c t - minGuard s c else genFree s c t
/-- Entries of a tile's general pool that a request of instance i may take now (R212): one of an instance below its minimum any,
one of another those outside the guard; none that has gone to a background step. -/
def genFreeFor (s : State) (c : Ch) (t : TileId) (i : InstId) : Nat :=
  (if trCount (ch s c) i < trMin s c i then genFree s c t else genOpen s c t) - bgGiven (ch s c) t

/-- A general entry is free for a background step (R210, R212): one that has gone to it, or one outside the guard and past those
that have gone to others and the steps that wait before it. -/
def bgFree (s : State) (c : Ch) (t : TileId) (x : Work × LAddr) : Bool :=
  let q := bgQueue (ch s c) t
  q.contains (x.1, x.2, true) ||
    decide (bgGiven (ch s c) t + ((q.filter (!·.2.2)).takeWhile fun y => (y.1, y.2.1) != x).length < genOpen s c t)
/-- A freed entry that no waiting request takes goes to the oldest waiting background step of the tile (R212, step 3). -/
def giveBg (c : Ch) (t : TileId) (s : State) : State :=
  let q := bgQueue (ch s c) t
  if q.isEmpty then s
  else
    let n := genOpen s c t - bgGiven (ch s c) t
    let go := ((q.filter (!·.2.2)).take n).map fun y => (y.1, y.2.1)
    modTile c t (fun x => { x with bgWaits := q.map fun y => (y.1, y.2.1, y.2.2 || go.contains (y.1, y.2.1)) }) s

/-- A reserve entry of the tile is neither bound nor in use (R192). -/
def reserveFree (s : State) (c : Ch) (t : TileId) : Bool :=
  decide (boundIn (ch s c) t + anchorUsed (tile s c t) < anchorRsv s c)

/-- Landing places for the SDATA of snoops taken in a channel (R467): every snoop out or awaiting its SDATA has one. -/
def sdataUsed (k : Channel) : Nat :=
  (k.tiles.toList).foldl (fun n t =>
    t.ents.foldl (fun n x => n + (x.2.snoops.filter fun p => p.out || p.dataDue || p.sdata.isSome).length) n) 0
/-- A landing place for SDATA is free; a flow that finds none waits at its SNOOP microstep (R467). -/
def sdataFree (k : Channel) : Bool := decide (sdataUsed k < 512)

/-- The lowest free entry index of a tile (R207). -/
def freeEntry (t : Tile) : Option Nat := (List.range 160).find? fun n => (entry? t n).isNone

-- ## Bank ports (R231, R232)

/-- Classes of Table 8-9. -/
def clsEvict : Nat := 4
/-- BACKGROUND. -/
def clsBackground : Nat := 5
/-- RECOVERY. -/
def clsRecovery : Nat := 6
/-- SCRUB. -/
def clsScrub : Nat := 7
/-- CS_FETCH. -/
def clsFetch : Nat := 8

/-- The class of a background requester at a bank's port: a recovery's rewrite of a block, else a maintenance or reclaim step. -/
def BankWho.cls : BankWho → Nat
  | .recovery => clsRecovery
  | _ => clsBackground
/-- What stands in a grant for a background requester, and who that is. -/
def BankWho.holder : BankWho → Nat
  | .flow n => n
  | .recovery => 161
  | .step j => 162 + j
  | _ => 160
/-- The background requester that a grant's number stands for. -/
def BankWho.held (n : Nat) : BankWho := if n = 160 then .reclaim else if n = 161 then .recovery else .step (n - 162)

/-- The deadline a requester of class k takes now (R215). -/
def deadlineOf (s : State) (c : Ch) (k : Nat) : BitVec 21 :=
  BitVec.ofNat 21 (s.tick + 4 * atLeast1 (cfC s c 7 0x68 (7 * k) 7))

/-- The class of an entry's flow (Table 8-9). -/
def clsOf (e : Entry) : Nat :=
  if e.isRequest then e.prio.toNat
  else match e.work with
    | .eviction => clsEvict
    | .recovery => clsRecovery
    | _ => clsBackground

/-- The level of class k in force. -/
def levelOf (s : State) (c : Ch) (k : Nat) : Nat := ((ch s c).levels >>> (3 * k)).toNat % 8
/-- How far a stamp lies behind the age counter, 2^30 or more ranking alike as oldest (R214). -/
def behind (now stamp : BitVec 32) : Nat := min (now - stamp).toNat (2 ^ 30)
/-- The element of a list with the least key. -/
def leastBy {α : Type} (f : α → Nat) : List α → Option α
  | [] => none
  | a :: r => match leastBy f r with
    | none => some a
    | some b => if f a ≤ f b then some a else some b

/-- The grant of a bank's port. -/
def grantOf (x : Tile) : Bank → Option Grant | .sf => x.sfGrant | .lc => x.lcGrant
/-- Set the grant of a bank's port. -/
def setGrant (b : Bank) (g : Option Grant) (x : Tile) : Tile :=
  match b with | .sf => { x with sfGrant := g } | .lc => { x with lcGrant := g }
/-- The requests at a bank's port. -/
def reqsOf (x : Tile) : Bank → List BankReq | .sf => x.sfReqs | .lc => x.lcReqs
/-- Set the requests at a bank's port. -/
def setReqs (b : Bank) (l : List BankReq) (x : Tile) : Tile :=
  match b with | .sf => { x with sfReqs := l } | .lc => { x with lcReqs := l }
/-- A requester enters contention at a bank's port, where it has at most one request (R215, R231). -/
def askPort (c : Ch) (t : TileId) (b : Bank) (who : BankWho) (cls : Nat) (age : BitVec 32) (s : State) : State :=
  modTile c t (fun x =>
    if (reqsOf x b).any (·.who == who) then x
    else setReqs b (reqsOf x b ++ [⟨who, cls, age, s.tick, deadlineOf s c cls, false⟩]) x) s
/-- A requester leaves a bank's port. -/
def dropAsk (b : Bank) (who : BankWho) (x : Tile) : Tile := setReqs b ((reqsOf x b).filter (·.who != who)) x

/-- The rewrite of a block that a lookup has corrected waits at its bank's port (R309). -/
def mendPending (x : Tile) (arr row : Nat) : Bool := (x.sfReqs ++ x.lcReqs).any (·.who == .mend arr row)
/-- A read under a grant finds a correctable block of source g: it is counted, unless a lookup has found it before and its rewrite
still waits, which then is not needed (R309). `more` is what the block adds to its way. -/
def countMend (c : Ch) (t : TileId) (arr row g : Nat) (planted : Bool) (more : State → State) (s : State) : State :=
  if mendPending (tile s c t) arr row then modTile c t (fun x => dropAsk .sf (.mend arr row) (dropAsk .lc (.mend arr row) x)) s
  else more (correctable c g (some t) planted s)
/-- A lookup finds a correctable block of source g: it is counted once, and the bank port is to rewrite it at class SCRUB
(R309). -/
def noteMend (c : Ch) (t : TileId) (b : Bank) (arr row g : Nat) (planted : Bool) (more : State → State) (s : State) : State :=
  if mendPending (tile s c t) arr row then s
  else more (correctable c g (some t) planted (askPort c t b (.mend arr row) clsScrub (ch s c).age s))

/-- A bank of a tile is held in raw-access mode (R459). -/
def rawHeld (s : State) (c : Ch) (t : TileId) (b : Bank) : Bool :=
  match Tab.get? s.raw c with
  | some h => h.tile == t.val && h.bank == b
  | none => false

-- ## Merge buffers (R315)

/-- What a requester at a bank's port belongs to: a flow's or an early fetch's request, or none in its tile. -/
def occWho (k : Channel) (t : TileId) (w : BankWho) : Occ :=
  match w with
  | .flow n => (entry? k.tiles[t] n).elim (occTile t) (occE t)
  | .fetch rid => (k.openReqs.find? (·.rid == rid)).elim (occTile t) fun q => occOf q.laddr q.agent q.inst
  | _ => occTile t

/-- Merge buffers of a tile in use by other entries (R315). -/
def mergeBusy (x : Tile) (n : Nat) : Bool := decide (4 ≤ (x.ents.filter fun y => y.1 != n && y.2.merging).length)
/-- The flow of an entry is to have a merge buffer: a WR_PTL flow whose data or whose line's current value has arrived, or a
flow with an absorbed partial write; a merge at memory uses none (R315). -/
def needsMerge (e : Entry) : Bool :=
  !e.merging && !e.ended && e.absorbedBy.isNone && (!e.inChain || e.head) && !e.mem.any (·.1 == .wrPtl) &&
    (e.op == some .wrPtl && !e.placed && (e.operand.isSome || e.rdata.isSome) || !e.absPtl.isEmpty)
/-- A flow that needs a merge buffer takes a free one; else it waits for one. -/
def takeBuffer (c : Ch) (t : TileId) (n : Nat) (s : State) : State :=
  modEntry c t n (fun e => if needsMerge e && !mergeBusy (tile s c t) n then { e with merging := true } else e) s
/-- A freed merge buffer goes to the flow that ranks first of those that wait for one: by the level of its class, then the oldest
(R234, R315). -/
def grantMerge (c : Ch) (t : TileId) (s : State) : State :=
  match leastBy (fun x => (7 - levelOf s c (clsOf x.2)) * 2 ^ 31 + (2 ^ 30 - behind (ch s c).age x.2.age))
      ((tile s c t).ents.filter fun x => needsMerge x.2) with
  | none => s
  | some (n, _) => takeBuffer c t n s

-- ## Tables as the channel applies them (R397, R398, R447)

/-- A CF or LK word of a match page or the agent table page as channel c applies it. -/
def chTable (k : Channel) (a : Nat) : Word := Tab.word k.copy a
/-- The agent table fields of agent a: KIND, PRIV, ADAPTER (Table 20-4). -/
def agentWord (k : Channel) (a : AgentId) : Nat :=
  bits (chTable k (0x5100 + 8 * (a.toNat / 2))) (32 * (a.toNat % 2)) 32
/-- KIND. -/
def agentKind (k : Channel) (a : AgentId) : Nat := agentWord k a % 4
/-- PRIV. -/
def agentPriv (k : Channel) (a : AgentId) : Bool := (agentWord k a).testBit 2
/-- STATE of an agent as the channel applies it. -/
def agentLife (k : Channel) (a : AgentId) : Life := Tab.getD k.life a.toNat .live
/-- The agent is recorded dead (RECLAIMING or DEAD). -/
def agentDead (k : Channel) (a : AgentId) : Bool := agentLife k a != .live
/-- The agent caches lines: CXL host or Calsel ring agent. -/
def caches (k : Channel) (a : AgentId) : Bool := agentKind k a == 1 || agentKind k a == 2
/-- A ring agent. -/
def isRing (k : Channel) (a : AgentId) : Bool := agentKind k a == 2

/-- The block-level ADAPTER of an agent (R65). -/
def agentAdapter (s : State) (a : AgentId) : Nat :=
  bits (appWord s (0x5100 + 8 * (a.toNat / 2))) (32 * (a.toNat % 2) + 4) 7
/-- The block-level KIND of an agent. -/
def agentKindB (s : State) (a : AgentId) : Nat := bits (appWord s (0x5100 + 8 * (a.toNat / 2))) (32 * (a.toNat % 2)) 2
/-- The block-level STATE of an agent. -/
def agentLifeB (s : State) (a : AgentId) : Life := Tab.getD s.life a.toNat .live

/-- Match entry n resolves (agent, psel) (R396). -/
def matchHit (k : Channel) (n : Nat) (a : AgentId) (psel : InstId) : Option InstId :=
  let w := chTable k (0x10000 + 0x1000 * (n / 128) + 0x40 + 8 * (n % 128))
  let mask := w.extractLsb' 16 8
  if w.getLsbD 32 && w.extractLsb' 0 8 == a && (w.extractLsb' 8 8 &&& mask) == (psel &&& mask) &&
      decide (bits w 24 8 ≤ 240) then some (w.extractLsb' 24 8)
  else none
/-- The entry numbers of the match table that a channel's applied copy lists, ascending. -/
def matchNums (k : Channel) : List Nat :=
  k.copy.filterMap fun e =>
    if 0x10000 ≤ e.1 ∧ e.1 < 0x18000 ∧ 0x40 ≤ e.1 % 0x1000 then
      some ((e.1 - 0x10000) / 0x1000 * 128 + (e.1 % 0x1000 - 0x40) / 8)
    else none
/-- The instance a request resolves to (R396): the lowest-numbered matching entry, else instance 0. -/
def resolve (k : Channel) (a : AgentId) (psel : InstId) : InstId :=
  ((matchNums k).findSome? fun n => matchHit k n a psel).getD 0

/-- State of an instance as the channel applies it; instance 0 is ACTIVE (R398). -/
def instState (k : Channel) (i : InstId) : IState :=
  if i == 0 then .active else Tab.getD k.ist i.toNat .free
/-- The block-level state of an instance. -/
def instStateB (s : State) (i : InstId) : IState :=
  if i == 0 then .active else Tab.getD s.ist i.toNat .free

end Sys2Proof.Machine
end

