-- ==== Sys2Proof/Machine/Directory.lean ====
section
/-! DEFINITION. The snoop filter (05): reading the two sets of a line (R18, R123, R128), writing entries (R124 to R127,
R130 to R138), victims (R139 to R141), and the counts of SF_OCC and SF_IQ. -/

namespace Sys2Proof.Machine

-- ## Rows of the bank

/-- Row of a slot in array 0 (Table 21-7). -/
def slotRow (set way : Nat) : Nat := set * 4 + way / 4
/-- A word as a read corrects it (R308, R309). -/
def fixedWord (k : Channel) (arr t row w : Nat) : Word :=
  match rowOutcome k (rowKey arr t row) with
  | .mended (some i) b => if i = w then memWord k arr t row w ^^^ (1#64 <<< b) else memWord k arr t row w
  | _ => memWord k arr t row w
/-- The 128 bits of a slot as a read corrects them. -/
def slotBits (k : Channel) (t set way : Nat) : BitVec 128 :=
  fixedWord k 0 t (slotRow set way) (2 * (way % 4) + 1) ++ fixedWord k 0 t (slotRow set way) (2 * (way % 4))
/-- The extension word of a set (R123). -/
def extWord (k : Channel) (t set : Nat) : Word := fixedWord k 1 t (set / 8) (set % 8)
/-- Way 2p holds a valid cirrus entry with FMT 0b10 (R126). -/
def headsWide (k : Channel) (t set way : Nat) : Bool :=
  let w := slotBits k t set way
  way % 2 == 0 && (w.extractLsb' 0 2) == 1 && !w.getLsbD 29 && (w.extractLsb' 30 2) == 2
/-- The way is a wide continuation (R126). -/
def isCont (k : Channel) (t set way : Nat) : Bool := way % 2 == 1 && headsWide k t set (way - 1)
/-- The slot is retired: lookups ignore it and it takes no allocation (Table 12-6). -/
def slotRetired (k : Channel) (t set way : Nat) : Bool := k.setRet.contains (t, set, way, false)
/-- What a way of a set holds. -/
def slotAt (k : Channel) (t set way : Nat) : SlotV :=
  if slotRetired k t set way || isCont k t set way then .invalid
  else decodeSlot (slotBits k t set way) (slotBits k t set (way + 1)) (extWord k t set)

/-- Write a word as a lookup does: a block with an error keeps it, with its planted mark, until the bank port rewrites it
(R309). -/
def lookPut (arr t row w : Nat) (v : Word) (k : Channel) : Channel :=
  match rowOutcome k (rowKey arr t row) with
  | .good => putMem arr t row w v k
  | _ => { k with mem := Tab.putWord k.mem (rowKey arr t row * 8 + w) (memWord k arr t row w ^^^ fixedWord k arr t row w ^^^ v) }
/-- Write the 128 bits of a slot. -/
def putSlotBits (t set way : Nat) (w : BitVec 128) (k : Channel) : Channel :=
  putMem 0 t (slotRow set way) (2 * (way % 4) + 1) (w.extractLsb' 64 64)
    (putMem 0 t (slotRow set way) (2 * (way % 4)) (w.extractLsb' 0 64) k)
/-- Write the extension word of a set. -/
def putExt (t set : Nat) (w : Word) (k : Channel) : Channel := putMem 1 t (set / 8) (set % 8) w k
/-- Advance a set's update count (R224). -/
def bumpSet (t set : Nat) (k : Channel) : Channel :=
  let x := k.tiles[Fin.ofNat 16 t]
  { k with tiles := k.tiles.set (Fin.ofNat 16 t) { x with seqs := Tab.put x.seqs set (Tab.getD x.seqs set 0 + 1) } }

/-- Make a way invalid, with its continuation and extension word if it heads a wide entry (R130, R142). -/
def clearWay (t set way : Nat) (k : Channel) : Channel :=
  let wide := headsWide k t set way
  let k1 := putSlotBits t set way 0 k
  bumpSet t set (if wide then putExt t set 0 (putSlotBits t set (way + 1) 0 k1) else k1)

/-- Write an entry into a way; a wide entry also writes its continuation and the extension word (R126). -/
def writeWay (t set way : Nat) (v : SlotV) (k : Channel) : Channel :=
  let k1 := putSlotBits t set way (encodeSlot v) k
  bumpSet t set (match v with
    | .cirrus _ (.s (.wide vec) _) _ _ =>
      putExt t set (vec.extractLsb' 192 64) (putSlotBits t set (way + 1) (vec.extractLsb' 64 128) k1)
    | _ => k1)

-- ## Lookup (R128)

/-- What a lookup of a line finds. -/
structure Look where
  dir : Dir
  cway : Option Nat
  sway : Option Nat
  owner : AgentId
  mask : BitVec 64
  cinst : InstId
  sinst : InstId
  bad : Bool
  deriving DecidableEq, Repr

/-- The row of a slot cannot be mended. -/
def wayBad (k : Channel) (t set way : Nat) : Bool := rowOutcome k (rowKey 0 t (slotRow set way)) == .bad
/-- A wide continuation or the extension word of a set cannot be mended (R128). -/
def wideBad (k : Channel) (t set : Nat) : Bool :=
  rowOutcome k (rowKey 1 t (set / 8)) == .bad ||
    (List.range 16).any fun w => isCont k t set w && wayBad k t set w

/-- A lookup of a line reads its cirrus set and its region's stratus set (R18, R128). -/
def lookup (k : Channel) (l : LAddr) : Look :=
  let t := tileOf l
  let cs := cirrusSet l
  let ss := stratusSet l
  let cws := (List.range 16).filter fun w => match slotAt k t cs w with
    | .cirrus tag _ _ _ => tag == sfTag l
    | _ => false
  let sws := (List.range 16).filter fun w => match slotAt k t ss w with
    | .stratus tag _ _ _ _ => tag == sfTag l
    | _ => false
  let k3 := (List.range 16).any fun w => slotAt k t cs w == .bad || slotAt k t ss w == .bad
  let cv := match cws with | w :: _ => slotAt k t cs w | [] => .invalid
  let sv := match sws with | w :: _ => slotAt k t ss w | [] => .invalid
  let (owner, mask, sinst) := match sv with
    | .stratus _ o m i _ => (o, m, i)
    | _ => (0, 0, 0)
  let bit := mask.getLsbD (lineInRegion l)
  let bad := k3 || decide (1 < cws.length) || decide (1 < sws.length) || (!cws.isEmpty && bit) ||
    cws.any (wayBad k t cs) || sws.any (wayBad k t ss) || wideBad k t cs || wideBad k t ss
  match cv with
  | .cirrus _ d i _ => ⟨d, cws.head?, sws.head?, owner, mask, i, sinst, bad⟩
  | _ => ⟨if bit then .region owner else .i, none, sws.head?, owner, mask, 0, sinst, bad⟩

/-- The ways of a set that hold nothing and may be allocated (Table 12-6, R139). -/
def freeWays (k : Channel) (t set : Nat) : List Nat :=
  (List.range 16).filter fun w => slotAt k t set w == .invalid && !slotRetired k t set w && !isCont k t set w
/-- An invalid way, searched from a hint (assumption 8). -/
def freeWay (k : Channel) (t set hint : Nat) : Option Nat :=
  ((List.range 16).map fun j => (hint + j) % 16).find? (freeWays k t set).contains
/-- An invalid even/odd pair for a wide entry, in a set that has no wide entry (R126, R130). -/
def freePair (k : Channel) (t set : Nat) : Option Nat :=
  if (List.range 16).any (headsWide k t set) then none
  else (List.range 8).findSome? fun p =>
    if (freeWays k t set).contains (2 * p) && (freeWays k t set).contains (2 * p + 1) then some (2 * p) else none

/-- Set REF of the entry a lookup found (R141). -/
def touch (l : LAddr) (k : Channel) : Channel :=
  let lk := lookup k l
  let t := tileOf l
  let f (set : Nat) (w : Option Nat) (k : Channel) : Channel := match w with
    | none => k
    | some w =>
      lookPut 0 t (slotRow set w) (2 * (w % 4)) ((slotBits k t set w ||| (1#128 <<< 52)).extractLsb' 0 64) k
  match lk.dir with
  | .region _ => f (stratusSet l) lk.sway k
  | _ => f (cirrusSet l) lk.cway k

-- ## Updates

/-- Clear the line's MASK bit; a MASK that becomes zero frees the entry (R127, R133). -/
def clearMask (l : LAddr) (k : Channel) : Channel :=
  let lk := lookup k l
  let t := tileOf l
  match lk.sway with
  | none => k
  | some w =>
    let m := lk.mask &&& ~~~(1#64 <<< lineInRegion l)
    if m = 0 then clearWay t (stratusSet l) w k
    else writeWay t (stratusSet l) w (.stratus (sfTag l) lk.owner m lk.sinst true) k
/-- Set the line's MASK bit (growth, Table 4-2). -/
def setMask (l : LAddr) (k : Channel) : Channel :=
  let lk := lookup k l
  match lk.sway with
  | none => k
  | some w =>
    writeWay (tileOf l) (stratusSet l) w
      (.stratus (sfTag l) lk.owner (lk.mask ||| (1#64 <<< lineInRegion l)) lk.sinst true) k

/-- Write a line's new state into the entry it has, or free it: no allocation. Wide entries move to an invalid pair
(R130, R131); a wide entry that was compacted frees its continuation. -/
def rewrite (l : LAddr) (d : Dir) (k : Channel) : Channel :=
  let lk := lookup k l
  let t := tileOf l
  let cs := cirrusSet l
  match lk.cway with
  | some w =>
    match d with
    | .i => clearWay t cs w k
    | .region _ => k
    | .s (.wide v) f =>
      if headsWide k t cs w then writeWay t cs w (.cirrus (sfTag l) (.s (.wide v) f) lk.cinst true) k
      else match freePair k t cs with
        | some p => writeWay t cs p (.cirrus (sfTag l) (.s (.wide v) f) lk.cinst true) (clearWay t cs w k)
        | none => k
    | d => writeWay t cs w (.cirrus (sfTag l) d lk.cinst true) (if headsWide k t cs w then clearWay t cs w k else k)
  | none =>
    match lk.dir, d with
    | .region _, .region _ => k
    | .region _, _ => clearMask l k
    | _, _ => k

/-- Allocate a cirrus entry in a given way. -/
def allocCirrus (l : LAddr) (way : Nat) (d : Dir) (inst : InstId) (k : Channel) : Channel :=
  writeWay (tileOf l) (cirrusSet l) way (.cirrus (sfTag l) d inst true) k
/-- Allocate a stratus entry in a given way (R135). -/
def allocStratus (l : LAddr) (way : Nat) (owner : AgentId) (inst : InstId) (k : Channel) : Channel :=
  writeWay (tileOf l) (stratusSet l) way (.stratus (sfTag l) owner (1#64 <<< lineInRegion l) inst true) k

/-- The line's sharers may be recorded wide: WIDE_EN (Table 5-6) and room for a wide pair in its set, or its entry is the wide
one already, which an agent that joins leaves wide (R130). -/
def mayWide (s : State) (c : Ch) (l : LAddr) : Bool :=
  (match (lookup (ch s c) l).dir with | .s (.wide _) _ => true | _ => false) ||
    cfC s c 4 0x40 1 1 == 1 && (freePair (ch s c) (tileOf l) (cirrusSet l)).isSome

/-- The region is in the bank's demotion list and the list is applied (R136). -/
def inDemoted (s : State) (c : Ch) (l : LAddr) : Bool :=
  cfC s c 4 0x40 2 1 == 1 && (tile s c (home l)).demoted.contains (regionOf l)

/-- Promotion is allowed for a requester that takes line l from I to X (R135), but for the invalid way. -/
def promotes (s : State) (c : Ch) (l : LAddr) (a : AgentId) : Bool :=
  cfC s c 4 0x40 0 1 == 1 && caches (ch s c) a && (lookup (ch s c) l).sway.isNone && !inDemoted s c l

/-- Where state d of line l is recorded for requester a (R135, R137): a line in I of a region that the requester owns grows the
stratus entry, whichever state is to record the requester alone. -/
def placeFor (s : State) (c : Ch) (l : LAddr) (d : Dir) (a : AgentId) (hint : Nat) : Place :=
  let k := ch s c
  let lk := lookup k l
  match d with
  | .i => .inPlace
  | .region _ => if lk.dir == .i then .grow else .inPlace
  | _ =>
    if lk.cway.isSome then .inPlace
    else if lk.dir == .i && lk.sway.isSome && lk.owner == a && d.agents == [a] then .grow
    else
      let asX := lk.dir == .i && d == .x a && promotes s c l a
      match (if asX then freeWay k (tileOf l) (stratusSet l) hint else none) with
      | some w => .stratus w
      | none =>
        match freeWay k (tileOf l) (cirrusSet l) hint with
        | some w => .cirrus w
        | none => .full

/-- Record state d of line l (one directory update); `full` changes nothing. -/
def applyDir (l : LAddr) (d : Dir) (p : Place) (a : AgentId) (inst : InstId) (k : Channel) : Channel :=
  let drop (k : Channel) : Channel := match (lookup k l).dir with
    | .region _ => clearMask l k
    | _ => k
  match p with
  | .inPlace => rewrite l d k
  | .grow => setMask l k
  | .stratus w => allocStratus l w a inst k
  | .cirrus w => allocCirrus l w d inst (drop k)
  | .full => k

/-- Events of a directory update (0x11 promotion, 0x12 withheld by the list, 0x14 format changes). -/
def dirEvents (c : Ch) (l : LAddr) (before after : Dir) (p : Place) (a : AgentId) (inst : InstId) (s : State) : State :=
  let o := occOf l a inst
  let s := match p with | .stratus _ => ev c 0x11 none o s | _ => s
  let s := if before == .i && after == .x a && cfC s c 4 0x40 0 1 == 1 && caches (ch s c) a &&
      (lookup (ch s c) l).sway.isNone && inDemoted s c l then ev c 0x12 none o s else s
  match before, after with
  | .s (.ptrs _) _, .s (.coarse _) _ => ev c 0x14 (some 0) o s
  | .s (.ptrs _) _, .s (.wide _) _ => ev c 0x14 (some 1) o s
  | .s (.coarse _) _, .s (.wide _) _ => ev c 0x14 (some 1) o s
  | .s (.wide _) _, .s (.ptrs _) _ => ev c 0x14 (some 2) o s
  | _, _ => s

/-- The sets of two lines are in one tile and meet. -/
def setsMeet (l m : LAddr) : Bool :=
  tileOf l == tileOf m && [cirrusSet l, stratusSet l].any fun x => x == cirrusSet m || x == stratusSet m
/-- A clear-sky update of one of the line's sets has not landed (R180). -/
def landingOn (s : State) (c : Ch) (l : LAddr) : Bool := (ch s c).landings.any fun d => setsMeet l d.line
/-- A clear-sky update of some set of the tile has not landed: a step of background work leaves the tile's sets alone until it has
(R180). -/
def landingIn (s : State) (c : Ch) (t : TileId) : Bool := (ch s c).landings.any fun d => tileOf d.line == t.val
/-- What a clear-sky update writes. -/
def Landing.put (d : Landing) (k : Channel) : Channel := applyDir d.line d.after d.place d.agent d.inst k
/-- The channel with every clear-sky update that has not landed written, in order: what a later update will find. -/
def ahead (k : Channel) : Channel := k.landings.foldl (fun k d => d.put k) k
/-- A clear-sky update is written on its verdict edge, in the update slot of the bank port (R105, R180, R232). -/
def land (c : Ch) (d : Landing) (s : State) : State :=
  modCh c d.put (dirEvents c d.line (lookup (ch s c) d.line).dir d.after d.place d.agent d.inst s)
/-- The clear-sky updates whose verdict edge has come by edge `now` are written. -/
def landBy (c : Ch) (now : Nat) (s : State) : State :=
  let due := (ch s c).landings.filter fun d => decide (d.edge ≤ now)
  forEach due (land c) (modCh c (fun k => { k with landings := k.landings.filter fun d => decide (now < d.edge) }) s)
/-- Every clear-sky update that has not landed is written: the ingress has been low since it was decided. -/
def landAll (c : Ch) (s : State) : State :=
  forEach (ch s c).landings (land c) (modCh c (fun k => { k with landings := [] }) s)

/-- Demote line l from its stratus entry (R137): MASK bit cleared, cirrus entry in X for OWNER, one update; the region
enters the demotion list (R136). -/
def demoteTo (l : LAddr) (way : Nat) (k : Channel) : Channel :=
  let lk := lookup k l
  allocCirrus l way (.x lk.owner) lk.sinst (clearMask l k)
/-- A region enters the demotion list, replacing the oldest (R136). One that the list holds stays at its place (DESIGN CHOICE,
assumption 66). -/
def listDemotion (s : State) (c : Ch) (l : LAddr) (t : Tile) : Tile :=
  if cfC s c 4 0x40 2 1 == 1 && !t.demoted.contains (regionOf l) then
    { t with demoted := (if t.demoted.length < 32 then t.demoted else t.demoted.drop 1) ++ [regionOf l] }
  else t

-- ## Errors of directory rows (R309)

/-- The rows of array 0 and 1 a lookup of a line reads. -/
def dirRows (l : LAddr) : List (Nat × Nat) :=
  let rows (set : Nat) : List (Nat × Nat) := (List.range 4).map (fun m => (0, set * 4 + m)) ++ [(1, set / 8)]
  if cirrusSet l = stratusSet l then rows (cirrusSet l) else rows (cirrusSet l) ++ rows (stratusSet l)

/-- A read under a grant mends the correctable rows among those given and counts them (R309). -/
def mendRows (c : Ch) (g t : Nat) (rows : List (Nat × Nat)) (s : State) : State :=
  forEach rows (fun r s =>
    let key := rowKey r.1 t r.2
    match rowOutcome (ch s c) key with
    | .mended w b => modCh c (mendRow key w b) (countMend c (tileN t) r.1 r.2 g (rowPlanted (ch s c) key) id s)
    | _ => s) s
/-- A lookup counts the correctable rows among those given; the bank port rewrites them (R309). -/
def noteRows (c : Ch) (t : TileId) (rows : List (Nat × Nat)) (s : State) : State :=
  forEach rows (fun r s =>
    match rowOutcome (ch s c) (rowKey r.1 t r.2) with
    | .mended _ _ => noteMend c t .sf r.1 r.2 0 (rowPlanted (ch s c) (rowKey r.1 t r.2)) id s
    | _ => s) s

-- ## Contents

/-- All valid entries of a channel's snoop filter: tile, set, way, entry. -/
def allSlots (k : Channel) : List (Nat × Nat × Nat × SlotV) :=
  (k.rows.filter fun e => e.1 / 8192 / 16 == 0).flatMap fun e =>
    let t := e.1 / 8192 % 16
    let row := e.1 % 8192
    (List.range 4).filterMap fun j =>
      match slotAt k t (row / 4) (row % 4 * 4 + j) with
      | .invalid => none
      | .bad => none
      | v => some (t, row / 4, row % 4 * 4 + j, v)

/-- The instance an entry is charged to (R146). -/
def SlotV.inst : SlotV → InstId
  | .cirrus _ _ i _ => i
  | .stratus _ _ _ i _ => i
  | _ => 0
/-- The slots an entry counts for (R146). -/
def SlotV.slots : SlotV → Nat
  | .cirrus _ (.s (.wide _) _) _ _ => 2
  | .cirrus _ _ _ _ => 1
  | .stratus _ _ _ _ _ => 1
  | _ => 0
/-- REF of an entry. -/
def SlotV.ref : SlotV → Bool
  | .cirrus _ _ _ r => r
  | .stratus _ _ _ _ r => r
  | _ => false
/-- A wide entry. -/
def SlotV.isWide : SlotV → Bool
  | .cirrus _ (.s (.wide _) _) _ _ => true
  | _ => false
/-- A stratus entry. -/
def SlotV.isStratus : SlotV → Bool
  | .stratus _ _ _ _ _ => true
  | _ => false

/-- SF_IQ_i.COUNT (R146). -/
def sfCount (k : Channel) (i : InstId) : Nat :=
  (allSlots k).foldl (fun n x => if x.2.2.2.inst == i then n + x.2.2.2.slots else n) 0
/-- SF_IQ_i.QUOTA. -/
def sfQuota (s : State) (c : Ch) (i : InstId) : Nat := cfC s c 4 (0x78 + 8 * i.toNat) 0 20

/-- The lines an entry covers (R140). -/
def slotLines (c t set : Nat) : SlotV → List LAddr
  | .cirrus tag _ _ _ => [cirrusLine c t set tag]
  | .stratus tag _ _ _ _ => (List.range 64).map (stratusLine c t set tag)
  | _ => []

/-- An entry is pinned: a line it covers has an open entry, or maintenance, reclaim or eviction work
(R140, R199: the flow's own line or region counts as pinned too). -/
def pinned (k : Channel) (c t set : Nat) (v : SlotV) (own : LAddr) : Bool :=
  (slotLines c t set v).any fun l =>
    l == own || (v.isStratus && regionOf l == regionOf own) || entryOpen k l || (jobHold k l).isSome

/-- The entries of a set that may be victims (R140). -/
def unpinned (k : Channel) (c t set : Nat) (own : LAddr) : List Nat :=
  (List.range 16).filter fun w =>
    let v := slotAt k t set w
    v != .invalid && v != .bad && !pinned k c t set v own
/-- The candidates after the quotas (R141), and whether a quota narrowed them. -/
def victimCands (s : State) (c : Ch) (t : TileId) (set : Nat) (inst : InstId) (own : LAddr) : List Nat × Bool :=
  let k := ch s c
  let cands := unpinned k c t set own
  let charged (w : Nat) (p : InstId → Bool) : Bool := p (slotAt k t set w).inst
  let mine := cands.filter fun w => charged w (· == inst)
  let past := cands.filter fun w => charged w fun i => decide (sfQuota s c i < sfCount k i)
  if decide (sfQuota s c inst ≤ sfCount k inst) && !mine.isEmpty then (mine, true)
  else if !past.isEmpty then (past, true)
  else (cands, false)

/-- The victim of a full set for an instance (R141): its way, whether a quota chose, and the entries whose REF bits a second
pass clears. -/
def chooseVictim (s : State) (c : Ch) (t : TileId) (set : Nat) (inst : InstId) (own : LAddr) :
    Option (Nat × Bool × List Nat) :=
  let k := ch s c
  let cs := victimCands s c t set inst own
  let cur := (tile s c t).cursor.toNat
  let order := (List.range 16).map fun j => (cur + j) % 16
  match order.find? fun w => cs.1.contains w && !(slotAt k t set w).ref with
  | some w => some (w, cs.2, [])
  | none => (order.find? cs.1.contains).map fun w => (w, cs.2, cs.1)

/-- Clear the REF bits of the candidates (R141). -/
def clearRefs (t : TileId) (set : Nat) (ways : List Nat) (k : Channel) : Channel :=
  ways.foldl (fun k w => putSlotBits t set w (slotBits k t set w &&& ~~~(1#128 <<< 52)) k) k

end Sys2Proof.Machine
end

