-- ==== Sys2Proof/Machine/Gate.lean ====
section
/-! DEFINITION. The target gate (11): regions, identities, the decision of R293, region attributes (R294), denials and
notices (R296 to R298), swaps and locks (R299 to R303). -/

namespace Sys2Proof.Machine

/-- A requester as the gate sees it (R289): a request's agent and resolved instance, or a host-port context. -/
inductive Who | irq (a : AgentId) (i : InstId) | host (ctx : Ctx)
  deriving DecidableEq, Repr

/-- A requester is privileged (R290). -/
def privileged (k : Channel) : Who → Bool
  | .irq a i => i == 0 && agentPriv k a
  | .host ctx => ctx == 0 || ctx == 15

/-- Word j of the descriptor of region n in bank b (Tables 11-5 to 11-7). -/
def rgnAddr (c b n j : Nat) : Nat := addrC c 0xB (0x100 + 0x300 * b + 0x18 * n + 8 * j)
/-- Word j of a descriptor as applied. -/
def rgnWord (s : State) (c b n j : Nat) : Word := appWord s (rgnAddr c b n j)
/-- The bank in force (R299). -/
def activeBank (k : Channel) : Nat := if k.tgActive then 1 else 0

/-- A descriptor's ADDR word covers a pool address (R291). -/
def covers (w : Word) (pa : Nat) : Bool :=
  let size := min 52 (max 15 (bits w 40 6))
  w.getLsbD 54 && pa / 2 ^ size == bits w 0 40 * 4096 / 2 ^ size &&
    !w.getLsbD (46 + pa % 2 ^ size / 2 ^ (size - 3))

/-- A descriptor's ID word matches a requester (R292). -/
def identityMatch (w : Word) : Who → Bool
  | .irq a i =>
    w.getLsbD 25 && (a &&& w.extractLsb' 8 8) == (w.extractLsb' 0 8 &&& w.extractLsb' 8 8) &&
      (w.getLsbD 24 || w.extractLsb' 16 8 == i)
  | .host ctx => w.getLsbD (26 + ctx.toNat)

/-- TG_LOCK of channel c. -/
def tgLocks (s : State) (c : Nat) : Word := Tab.word s.wo (addrC c 0xB 0x70)
/-- Region n of channel c is locked. -/
def rgnLocked (s : State) (c n : Nat) : Bool := (tgLocks s c).getLsbD n

/-- The regions in the order of R293: locked ones ascending, then the others ascending. -/
def gateOrder (s : State) (c : Nat) : List Nat :=
  (List.range 32).filter (rgnLocked s c) ++ (List.range 32).filter (fun n => !rgnLocked s c n)

/-- The pool address of the first byte of a line. -/
def poolAddr (l : LAddr) : Nat := l.toNat * 64

/-- Rights: read and write, and whether the default map granted them. -/
structure Rights where
  rd : Bool
  wr : Bool
  byMap : Bool
  deriving DecidableEq, Repr

/-- A pool address lies in the default map (Table 11-4). -/
def inDefMap (s : State) (c pa : Nat) : Bool :=
  let size := min 52 (max 12 (cfC s c 0xB 0x48 40 6))
  pa / 2 ^ size == cfC s c 0xB 0x48 0 40 * 4096 / 2 ^ size

/-- The first region of a list that decides for a requester: a locked region that covers decides even when its identity
does not match; another region decides only when it matches (R293). -/
def decide? (s : State) (c b pa : Nat) (who : Who) : List Nat → Option (Option Nat)
  | [] => none
  | n :: r =>
    if covers (rgnWord s c b n 0) pa then
      if identityMatch (rgnWord s c b n 1) who then some (some n)
      else if rgnLocked s c n then some none
      else decide? s c b pa who r
    else decide? s c b pa who r

/-- The decision of R293. -/
def gateCheck (s : State) (c : Ch) (who : Who) (l : LAddr) : Rights :=
  let b := activeBank (ch s c)
  match decide? s c b (poolAddr l) who (gateOrder s c) with
  | some (some n) => ⟨(rgnWord s c b n 2).getLsbD 0, (rgnWord s c b n 2).getLsbD 1, false⟩
  | some none => ⟨false, false, false⟩
  | none =>
    if privileged (ch s c) who && inDefMap s c (poolAddr l) then
      ⟨cfC s c 0xB 0x40 0 1 == 1, cfC s c 0xB 0x40 1 1 == 1, true⟩
    else ⟨false, false, false⟩

/-- Rights required (Table 11-1). -/
def permits (op : ReqOp) (r : Rights) : Bool :=
  match op with
  | .rdShd | .rdAny | .rdOwn | .rdCur | .upgrade => r.rd
  | .invAll | .wrFull | .wrPtl => r.wr
  | .atomic => r.rd && r.wr
  | .rdSpec | .evict | .biConflict => true

/-- The gate checks the operation (R289). -/
def gated (op : ReqOp) : Bool :=
  match op with
  | .rdSpec | .evict | .biConflict => false
  | _ => true

/-- The attribute region of a line: the first that covers it (R294). -/
def attrRegion (s : State) (c : Ch) (l : LAddr) : Option Nat :=
  (gateOrder s c).find? fun n => covers (rgnWord s c (activeBank (ch s c)) n 0) (poolAddr l)
/-- The line takes the write-back policy by its region or DEF_POLICY (R244). -/
def wbPolicy (s : State) (c : Ch) (l : LAddr) : Bool :=
  match attrRegion s c l with
  | some n => (rgnWord s c (activeBank (ch s c)) n 2).getLsbD 2
  | none => cfC s c 8 0x40 0 1 == 1
/-- Atomics of the line run at memory by its region (R172, R294). -/
def atomMem (s : State) (c : Ch) (l : LAddr) : Bool :=
  match attrRegion s c l with
  | some n => (rgnWord s c (activeBank (ch s c)) n 2).getLsbD 3
  | none => false

/-- Gate events of a decision (0x45 denial, 0x46 default-map grant). -/
def gateEvents (c : Ch) (granted byMap : Bool) (q : Nat) (o : Occ) (s : State) : State :=
  if granted then (if byMap then ev c 0x46 none o s else s) else ev c 0x45 (some q) o s

/-- A denied posted write opens a notice window or adds to its count (R298). -/
def noteDenied (c : Ch) (l : LAddr) (a : AgentId) (i : InstId) (s : State) : State :=
  modCh c (fun k => { k with notice := match k.notice with
    | none => some (s.tick + atLeast1 (cfC s c 0xB 0x40 8 16), subject l a i, 1, k.epoch, i)
    | some (d, w, n, e, j) => some (d, w, min (n + 1) 0xFFFF, e, j) }) s

/-- A request or access checked under another epoch is in flight (R301, R302). That one exactly 256 rule changes old counts as
current is the model's choice (assumption 108). -/
def oldOpen (k : Channel) (r : OpenReq) : Bool :=
  gated r.op && r.epoch != k.epoch && (r.awaitV || r.awaitD || r.awaitW || r.awaitP)
/-- OLD_INFLIGHT counts requests, whatever their line count (R302). -/
def oldInflight (k : Channel) : Nat :=
  ((k.openReqs.filter (oldOpen k)).map fun r => (r.agent, r.tag, r.edge, r.port)).eraseDups.length
/-- DRAIN_PEND. -/
def drainPend (k : Channel) : Bool := k.openReqs.any (oldOpen k)

/-- SWAP_OPEN: a swap is PENDING or RUNNING (Table 11-8); one that is ACCEPTED and waits for its quiet point is neither. -/
def swapShown (k : Channel) : Bool := k.swapOpen.any fun x => x.2.1 || x.2.2.2
/-- The notice window has ended (R298). -/
def noticeDue (s : State) (c : Ch) : Bool :=
  serving s c && match (ch s c).notice with
    | some (d, _, _, _, _) => decide (d ≤ s.tick)
    | none => false
/-- The notice record (TYPE 0x10) to queue 6 and to the instance's queue (R298, Table 15-2). -/
def noticeEnd (c : Ch) (s : State) : State :=
  match (ch s c).notice with
  | none => s
  | some (_, w, n, e, i) =>
    let w2 := BitVec.ofNat 64 (n + e.toNat * 2 ^ 16)
    let s := modCh c (fun k => { k with notice := none }) s
    let s := record c 6 1 0x10 [w, w2] false s
    let s := if i = 0 then s else record c (15 + i.toNat) 1 0x10 [w, w2] false s
    ev c 0x47 none {} s

/-- GATE_NOTICE_WINDOW_END (R298). -/
def execGateNoticeWindowEnd (c : Ch) (s : State) : Host.Outcome State Fault Refusal :=
  .next (if noticeDue s c then noticeEnd c s else s)

/-- A swap is RUNNING and every access checked under an older epoch has ended (R302). -/
def swapOver (s : State) (c : Ch) : Bool :=
  running s && match (ch s c).swapOpen with
    | some (_, _, _, run) => run && !drainPend (ch s c)
    | none => false
/-- It has held on the edge that ended a tick (R302, R475). -/
def swapDue (s : State) (c : Ch) : Bool := swapOver s c && s.ripe.contains (.swap c)
/-- The swap's entry becomes DONE (R302). -/
def swapEnd (c : Ch) (s : State) : State :=
  match (ch s c).swapOpen with
  | none => s
  | some (_, _, seq, _) => jEnd seq .done 0 0 (modCh c (fun k => { k with swapOpen := none }) s)

/-- GATE_SWAP_DONE (R302). -/
def execGateSwapDone (c : Ch) (s : State) : Host.Outcome State Fault Refusal :=
  .next (if swapDue s c then swapEnd c s else s)

/-- The register TG_SWAP acts on an accepted write (Table 11-2). -/
def tgSwapAct (ctx : Ctx) (c : Ch) (v : Word) (s : State) : State :=
  let a := addrC c 0xB 0x60
  let bank := v.getLsbD 0
  let sync := v.getLsbD 1
  let seq := s.jrnNext
  if cmOpen s a || (ch s c).swapOpen.isSome then busy a s
  else if bank == (ch s c).tgActive then
    respond 0 (jEnd seq .done 0 0 (jAccept ctx a 0x103 c v .accepted s))
  else
    let s := jAccept ctx a 0x103 c v (if sync then .pending else .accepted) s
    let s := modCh c (fun k => { k with
      swapOpen := some (bank, sync, seq, false)
      pendq := if sync then k.pendq else k.pendq ++ [.swap bank seq] }) s
    respond 0 s

/-- TG_SWAP (R300). -/
def execTgSwap (ctx : Ctx) (c : Ch) (bank groupSync : Bool) (s : State) : Host.Outcome State Fault Refusal :=
  .next (hostCmd ctx (addrC c 0xB 0x60) (tgSwapAct ctx c (BitVec.ofNat 64 (bank.toNat + 2 * groupSync.toNat))) s)

/-- A locked-write record (TYPE 0x19) for an ignored write (R356): to queue 9 of the page's channel, or of the lowest
channel that is ON. -/
def lockedWrite (ctx : Ctx) (a : Nat) (v : Word) (s : State) : State :=
  let s := reject a rejLocked s
  let ws := [BitVec.ofNat 64 (a + ctx.toNat * 2 ^ 24), v]
  match (pageOf a).bind Page.channel with
  | some c => record (chN c) 9 1 0x19 ws false s
  | none => recordBlock 0 1 0x19 ws s

/-- The register TG_LOCK acts on a write (R303, R356). -/
def tgLockAct (ctx : Ctx) (c : Ch) (v : Word) (s : State) : State :=
  let b : BitVec 32 := v.setWidth 32
  let a := addrC c 0xB 0x70
  let old := tgLocks s c
  let new : Word := b.setWidth 64 &&& ~~~old
  if new = 0 then respond 0 (if b = 0 then s else lockedWrite ctx a v s)
  else
    let seq := s.jrnNext
    let s := { s with wo := Tab.put s.wo a (old ||| new) }
    let s := jAccept ctx a 0x107 c v .accepted s
    respond 0 (modCh c (fun k => { k with pendq := k.pendq ++ [.regionLock (new.setWidth 32) seq] }) s)

/-- TG_LOCK (R303). -/
def execTgLock (ctx : Ctx) (c : Ch) (bits : BitVec 32) (s : State) : Host.Outcome State Fault Refusal :=
  .next (hostCmd ctx (addrC c 0xB 0x70) (tgLockAct ctx c (bits.setWidth 64)) s)

/-- Advance EPOCH (R301) and count the rule change (0x48). -/
def ruleChange (c : Ch) (s : State) : State :=
  ev c 0x48 none {} (modCh c (fun k => { k with epoch := k.epoch + 1 }) s)

/-- Region n's staged descriptor of the active bank is applied and copied to the other bank (R303). -/
def lockRegion (c b n : Nat) (s : State) : State :=
  forEach (List.range 3) (fun j s =>
    let v := stgWord s (rgnAddr c b n j)
    { s with
      app := Tab.put (Tab.put s.app (rgnAddr c b n j) v) (rgnAddr c (1 - b) n j) v
      stg := Tab.put s.stg (rgnAddr c (1 - b) n j) v }) s

end Sys2Proof.Machine
end

