-- ==== Sys2Proof/Machine/Rings.lean ====
section
/-! DEFINITION. The rings of a channel (10): stops and routes (R265, R270, Table 13-2), handing a flit to a stop, one step of
a ring (R270 to R279), re-sends, claims and slot tables. -/

namespace Sys2Proof.Machine

/-- Position of stop i of a ring (R265). -/
def stopPos (i : Nat) : Nat := if i = 0 then 0 else 1 + 3 * i
/-- Stop ID of stop i on ring r (Table 10-1): X-rings are 0-3, Y-rings 4-7. -/
def stopId (r i : Nat) : Nat :=
  if r < 4 then (if i = 0 then 16 + r else 4 * r + (i - 1))
  else if i = 0 then 20 + (r - 4) else 4 * (i - 1) + (r - 4)

/-- The ring and stop where REQ and RSP flits for tile t enter, with the detour of Table 13-2. That detour ends on the Y-ring of
the tile's column: for a tile where a retired X-ring and a retired Y-ring cross the table has no route, and the flit is handed
to the retired X-ring, where it stays (DESIGN CHOICE, assumption 91). -/
def inRoute (k : Channel) (t : Nat) : Nat × Nat :=
  let r := t / 4
  if k.xret.getLsbD r && !k.yret.getLsbD (t % 4) then ((r + 1) % 4, 0) else (r, 0)
/-- The ring and stop where OUT flits of tile t enter and the Y-edge stop they go to, with the detour of Table 13-2. That detour
goes by the X-ring of the tile's row: for a tile where a retired X-ring and a retired Y-ring cross the table has no route, and
the flit is handed to the retired X-ring, where it stays (DESIGN CHOICE, assumption 91). -/
def outRoute (k : Channel) (t : Nat) : Nat × Nat × Nat :=
  let c := t % 4
  if k.yret.getLsbD c then (t / 4, 1 + c, 20 + (c + 1) % 4) else (4 + c, 1 + t / 4, 20 + c)

/-- Ring r of a channel. -/
def Channel.ring (k : Channel) (r : Nat) : Ring := k.rings[Fin.ofNat 8 r]
/-- Replace ring r. -/
def Channel.setRing (k : Channel) (r : Nat) (x : Ring) : Channel := { k with rings := k.rings.set (Fin.ofNat 8 r) x }
/-- Stop i of a ring. -/
def Ring.stop (x : Ring) (i : Nat) : Stop := x.stops[Fin.ofNat 5 i]
/-- Replace stop i. -/
def Ring.setStop (x : Ring) (i : Nat) (p : Stop) : Ring := { x with stops := x.stops.set (Fin.ofNat 5 i) p }
/-- The slot at a position. -/
def Ring.slot (x : Ring) (p : Nat) : Slot := x.slots[Fin.ofNat 16 p]
/-- Replace the slot at a position. -/
def Ring.setSlot (x : Ring) (p : Nat) (q : Slot) : Ring := { x with slots := x.slots.set (Fin.ofNat 16 p) q }

/-- Hand a flit to its stop: it joins the queue of its class (R274, R276). -/
def Stop.enqueue (p : Stop) (f : Flit) : Stop :=
  match f.cls with
  | .rcv => { p with rcv := p.rcv ++ [f] }
  | .rsp => { p with rsp := p.rsp ++ [f] }
  | .out => { p with out := p.out ++ [f] }
  | .req => { p with req := p.req ++ [f] }

/-- Hand a flit to its stop ahead of what waits there in its class. -/
def Stop.enqueueFirst (p : Stop) (f : Flit) : Stop :=
  match f.cls with
  | .rcv => { p with rcv := f :: p.rcv }
  | .rsp => { p with rsp := f :: p.rsp }
  | .out => { p with out := f :: p.out }
  | .req => { p with req := f :: p.req }
/-- Hand a flit to stop i of ring r ahead of what waits there in its class. -/
def handFirst (r i : Nat) (f : Flit) (k : Channel) : Channel :=
  let x := k.ring r
  k.setRing r (x.setStop i ((x.stop i).enqueueFirst { f with born := x.step }))
/-- Hand a flit to stop i of ring r. -/
def handTo (r i : Nat) (f : Flit) (k : Channel) : Channel :=
  let x := k.ring r
  k.setRing r (x.setStop i ((x.stop i).enqueue { f with born := x.step }))

/-- A flit as its initiator hands it to a stop. -/
def mkFlit (dest src : Nat) (cls : FClass) (pair : BitVec 2) (h : Header) (payload : Line) (b : Body) : Flit :=
  ⟨dest, src, cls, 0, pair, 0, h, payload, 0, b, false, 0⟩
/-- A REQ or RSP flit for tile t. -/
def sendIn (t : Nat) (cls : FClass) (pair : BitVec 2) (h : Header) (payload : Line) (b : Body) (k : Channel) : Channel :=
  let (r, i) := inRoute k t
  handTo r i (mkFlit t (stopId r i) cls pair h payload b) k
/-- An OUT flit of tile t to the gasket of an egress port. -/
def sendOut1 (t : Nat) (pair : BitVec 2) (payload : Line) (p : EgrPort) (pkt : EgrPkt) (k : Channel) : Channel :=
  let (r, i, d) := outRoute k t
  handTo r i (mkFlit d (stopId r i) .out pair pkt.hdr payload (.egress p { pkt with data := 0 })) k
/-- An egress packet of a flow; the MEM_WR_PTL travels as a data flit and a mask flit (R268). -/
def sendOut (t : Nat) (p : EgrPort) (pkt : EgrPkt) (k : Channel) : Channel :=
  if pkt.hdr.opcode == 0x3B then sendOut1 t 2 (pkt.mask.setWidth 512) p pkt (sendOut1 t 1 pkt.data p pkt k)
  else sendOut1 t 0 pkt.data p pkt k

-- ## Steward traffic (R269, R270, Table 13-2)

/-- Where an RCV flit from one stop to another enters, and the stop it goes to: it stays on one ring where it can, else it
starts on the X-ring of its source; the detours of Table 13-2. -/
def rcvRoute (k : Channel) (src dest : Nat) : Nat × Nat × Nat :=
  if src < 16 then
    let row := src / 4
    let col := src % 4
    let dest := if dest = 16 + row ∧ k.xret.getLsbD row then 16 + (row + 1) % 4
      else if dest = 20 + col ∧ k.yret.getLsbD col then 20 + (col + 1) % 4 else dest
    let down := (dest < 16 && dest % 4 == col || dest == 20 + col) && !k.yret.getLsbD col
    if down || k.xret.getLsbD row then (4 + col, 1 + row, dest) else (row, 1 + col, dest)
  else if src < 20 then ((inRoute k dest).1, 0, dest)
  else (src - 16, 0, dest)
/-- The key of the RCV buffer of a stop for a source stop. -/
def rcvKey (dest src : Nat) : Nat := 24 * dest + src
/-- A notice from a tile's stop to the stewards at the X-edge stop of its row (R269, R280): it leaves if its place in the buffer of
four can be reserved (DESIGN CHOICE, assumption 70: what RCV flits say, and when they are sent, is the model's). -/
def notify (t : Nat) (k : Channel) : Channel :=
  let (r, i, d) := rcvRoute k t (16 + t / 4)
  let n := Tab.getD k.rcvRes (rcvKey d t) 0
  if 4 ≤ n ∨ 16 ≤ t then k
  else
    handTo r i (mkFlit d t .rcv 0 ⟨0, 0, 0, 0, 0, false, false, 0, false, 0⟩ 0 .steward)
      { k with rcvRes := Tab.put k.rcvRes (rcvKey d t) (n + 1) }
/-- An RCV flit takes its place in the buffer of the stop it has reached. -/
def keepNotice (stop : Nat) (f : Flit) (k : Channel) : Channel :=
  { k with rcvBuf := Tab.put k.rcvBuf (rcvKey stop f.src) (Tab.getD k.rcvBuf (rcvKey stop f.src) [] ++ [f]) }
/-- The stewards have read what the stops that satisfy a test have sent them: the places are free. -/
def readNotices (p : Nat → Bool) (k : Channel) : Channel :=
  { k with rcvRes := k.rcvRes.filter fun e => !p (e.1 % 24), rcvBuf := k.rcvBuf.filter fun e => !p (e.1 % 24) }

-- ## One step of a ring

/-- What one step of a ring brings about outside it. -/
structure HopOut where
  ejected : List (Nat × Flit)
  failed : List Nat
  broken : List Nat
  injected : List (Nat × Nat)
  deriving DecidableEq, Repr

/-- A stop of the ring may inject into a slot (R272). -/
def mayUse (q : Slot) (i : Nat) : Bool := q.claim.isNone || q.claim == some i
/-- A slot's tag is open to a class (R275). -/
def tagOpen (tag : BitVec 2) (cls : FClass) : Bool :=
  tag == 0 || match cls with
    | .rsp => tag == 1 | .out => tag == 2 | .rcv => tag == 3 | .req => false

/-- A flit is on its way when stop i sends it: it takes the next HOPSEQ and its CRC (R267), and waits for its acknowledgement
(R279). -/
def Stop.send (p : Stop) (f : Flit) : Stop × Flit :=
  let f := { f with hopseq := p.nextSeq }
  let f := { f with crc := f.check }
  ({ p with sent := p.sent ++ [(f, 0)], nextSeq := p.nextSeq + 1 }, f)

/-- A new queue head starts waiting at a step (R272). -/
def freshHead (step : Nat) : List Flit → List Flit
  | [] => []
  | f :: r => { f with born := step } :: r

/-- The heads of a stop's injection queues, in the order of R276. -/
def Stop.heads (p : Stop) : List Flit := p.rcv.take 1 ++ p.rsp.take 1 ++ p.out.take 1 ++ p.req.take 1
/-- The class of the head that has waited longest of those that a slot's tag admits; of two alike the first of R276. -/
def Stop.longest (p : Stop) (tag : BitVec 2) : Option FClass :=
  (leastBy (·.born) (p.heads.filter fun f => tagOpen tag f.cls)).map (·.cls)
/-- The flit an empty slot takes at a stop (R276), with the steps it waited; whether it is an injection. A slot that the stop has
claimed is filled in the same order, but among the queue heads with the one that has waited longest, so that the wait at a head is
bounded (R273; DEDUCED, assumption 72). -/
def Stop.choose (p : Stop) (claimed : Bool) (tag : BitVec 2) (step : Nat) : Option (Stop × Flit × Bool) :=
  let wait (f : Flit) (cls : FClass) : Bool := tagOpen tag cls && f.cls == cls && (!claimed || p.longest tag == some cls)
  match p.again with
  | f :: r => some ({ p with again := r }, f, false)
  | [] =>
    match p.turn with
    | some f => some ({ p with turn := none }, f, false)
    | none =>
      match p.rcv.head?.filter (wait · .rcv), p.rsp.head?.filter (wait · .rsp), p.out.head?.filter (wait · .out),
          p.req.head?.filter (wait · .req) with
      | some f, _, _, _ => some ({ p with rcv := freshHead step (p.rcv.drop 1) }, f, true)
      | none, some f, _, _ => some ({ p with rsp := freshHead step (p.rsp.drop 1) }, f, true)
      | none, none, some f, _ => some ({ p with out := freshHead step (p.out.drop 1) }, f, true)
      | none, none, none, some f => some ({ p with req := freshHead step (p.req.drop 1) }, f, true)
      | none, none, none, none => none

/-- The column a flit on an X-ring turns in: that of its destination tile or Y-edge stop (R270). -/
def turnColumn (dest : Nat) : Nat := if dest < 16 then dest % 4 else dest - 20
/-- The destination lies on ring r. -/
def onRing (r dest : Nat) : Bool := (List.range 5).any fun i => stopId r i == dest

/-- TURN_PRESS and CLAIM_WAIT as applied (Table 10-5). -/
def turnPress (s : State) (c : Ch) : Nat := atLeast1 (cfC s c 0xA 0x40 0 3)
/-- CLAIM_WAIT. -/
def claimWait (s : State) (c : Ch) : Nat := atLeast1 (cfC s c 0xA 0x40 8 8)

/-- The ring and stop onto which a flit turns at stop i of ring r (R270): an X-ring's turns onto the Y-ring of its destination's
column; a detour that has left a retired row by its Y-ring turns onto the X-ring of the row it was given (Table 13-2). -/
def turnTo (r i : Nat) (f : Flit) : Option (Nat × Nat) :=
  if i = 0 || onRing r f.dest then none
  else if r < 4 then (if turnColumn f.dest = i - 1 then some (4 + (i - 1), 1 + r) else none)
  else if (if 16 ≤ f.dest then f.dest - 16 else (f.src / 4 + 1) % 4) = i - 1 then some (i - 1, 1 + (r - 4))
  else none
/-- The turn register of tile stop t is free: each tile stop has one (R271). -/
def turnFree (k : Channel) (t : Nat) : Bool :=
  ((k.ring (t / 4)).stop (1 + t % 4)).turn.isNone && ((k.ring (4 + t % 4)).stop (1 + t / 4)).turn.isNone
/-- The replay buffer of a stop is full (R279): its 8 flits serve both rings of a tile stop. -/
def replayFull (k : Channel) (r i : Nat) : Bool :=
  let n (r i : Nat) : Nat := ((k.ring r).stop i).sent.length + ((k.ring r).stop i).again.length
  let t := stopId r i
  decide (8 ≤ if t < 16 then n (t / 4) (1 + t % 4) + n (4 + t % 4) (1 + t / 4) else n r i)

/-- The stewards retire ring r: nothing is injected onto it any more (R335). A fence ends that: the answers that wait there leave
(R58). -/
def ringHeld (k : Channel) (r : Nat) : Bool := k.cause == .none && k.action == some (.ringRetire r)

/-- A flit at its turning stop moves onto ring y at stop i, into the turn register, or keeps its slot (R271). The flag says that it
left its ring. -/
def turnAt (press y i : Nat) (f : Flit) (k : Channel) : Channel × Bool :=
  let x := k.ring y
  let p := stopPos i
  let q := x.slot p
  let st := x.stop i
  if q.flit.isNone && mayUse q i && tagOpen q.tag f.cls && st.again.isEmpty && st.turn.isNone && !replayFull k y i &&
      !ringHeld k y then
    let (st, f) := st.send f
    let st := if q.claim.isSome then { st with claim := false } else st
    (k.setRing y ((x.setStop i st).setSlot p { q with flit := some f, claim := none }), true)
  else if press ≤ f.laps && turnFree k (stopId y i) then
    (k.setRing y (x.setStop i { st with turn := some f }), true)
  else (k, false)

/-- A flit comes to stop i of ring r, which empties its slot: the stop upstream has its acknowledgement (R279). -/
def acked (i : Nat) (x : Ring) : Ring :=
  let u := (i + 4) % 5
  x.setStop u { x.stop u with sent := (x.stop u).sent.drop 1, fails := 0 }
/-- A flit that fails its check at stop i is dropped, with a NAK (R279); the third failure in a row breaks the hop (R280). -/
def hopFails (r i : Nat) (a : Channel × HopOut) : Channel × HopOut :=
  let x := a.1.ring r
  let u := (i + 4) % 5
  let su := x.stop u
  let breaks := su.fails + 1 == 3 && !su.broken
  let x := x.setStop u { su with fails := su.fails + 1, broken := su.broken || breaks }
  let x := (x.setStop i { x.stop i with dropping := true }).setSlot (stopPos i) { x.slot (stopPos i) with flit := none }
  (a.1.setRing r x, { a.2 with
    failed := a.2.failed ++ [stopId r i], broken := if breaks then a.2.broken ++ [stopId r u] else a.2.broken })
/-- A flit passes stop i of ring r on its way. Where re-sends wait there it goes into the stop behind them, and one of them
takes its slot (DESIGN CHOICE, assumption 73); with the replay buffer full it is not acknowledged, and its sender sends it again
(DESIGN CHOICE, assumption 74). -/
def hopPass (r i : Nat) (f : Flit) (k : Channel) : Channel :=
  let x := k.ring r
  let p := stopPos i
  let q := x.slot p
  let st := x.stop i
  if replayFull k r i then k.setRing r ((x.setStop i { st with dropping := true }).setSlot p { q with flit := none })
  else if st.again.isEmpty then
    let (st, f) := st.send f
    k.setRing r (((acked i x).setStop i st).setSlot p { q with flit := some f })
  else k.setRing r (((acked i x).setStop i { st with again := st.again ++ [f] }).setSlot p { q with flit := none })

/-- What stop i of ring r does with the slot at its place: the CRC check and the drop of R279, ejection (R269), turning (R271),
passing on. A flit under way to a tile that the retirement of its Y-ring has cut off leaves its ring there and stays with the
retired one (DESIGN CHOICE, assumption 91). `bad` are the positions where the link has damaged a flit. -/
def hopArrive (press r : Nat) (bad : List Nat) (i : Nat) (a : Channel × HopOut) : Channel × HopOut :=
  let k := a.1
  let x := k.ring r
  let p := stopPos i
  let q := x.slot p
  match q.flit with
  | none => a
  | some f =>
    let f := if bad.contains p then { f with crc := ~~~f.crc } else f
    let leaves (k : Channel) : Channel := k.setRing r ((acked i (k.ring r)).setSlot p { q with flit := none })
    if (x.stop i).dropping then (k.setRing r (x.setSlot p { q with flit := none }), a.2)
    else if f.crc != f.check then hopFails r i a
    else if f.dest = stopId r i then (leaves k, { a.2 with ejected := a.2.ejected ++ [(stopId r i, f)] })
    else
      match turnTo r i f with
      | none => (hopPass r i f k, a.2)
      | some (y, j) =>
        if (k.ring y).retired then (leaves (handTo y j f k), a.2)
        else
        let f := if f.turned then { f with laps := min 7 (f.laps + 1) } else { f with turned := true }
        match turnAt press y j f k with
        | (k, true) => (leaves k, a.2)
        | (k, false) => (hopPass r i f k, a.2)

/-- Injection by stop i into an empty slot at its place (R276); nothing but a re-send leaves while the replay buffer is full. A
claimed slot that comes to a claimer with nothing to put into it loses its mark, and the claim is over (DESIGN CHOICE,
assumption 71). -/
def hopInject (r i : Nat) (a : Channel × HopOut) : Channel × HopOut :=
  let k := a.1
  let o := a.2
  let x := k.ring r
  let p := stopPos i
  let q := x.slot p
  if q.flit.isSome || !mayUse q i || ringHeld k r || ((x.stop i).again.isEmpty && replayFull k r i) then a
  else
    match (x.stop i).choose q.claim.isSome q.tag x.step with
    | none =>
      if q.claim.isNone then a
      else (k.setRing r ((x.setStop i { x.stop i with claim := false }).setSlot p { q with claim := none }), o)
    | some (st, f, new) =>
      let (st, f') := st.send f
      let st := if q.claim.isSome then { st with claim := false } else st
      let x := (x.setStop i st).setSlot p { q with flit := some f', claim := none }
      let o := if new then { o with injected := o.injected ++ [(stopId r i, x.step - f.born - 1)] } else o
      (k.setRing r x, o)

/-- Move every slot one position on; the edge stop writes the tag of the slot that reaches it (R275). -/
def Ring.rotate (x : Ring) (y : Bool) : Ring :=
  let ph := (x.phase + 1) % 16
  let slots : Vector Slot 16 := Vector.ofFn fun p => x.slot (p.val + 15)
  let q0 := slots[0]
  { x with
    slots := slots.set 0 { q0 with tag := slotTag y x.table ((16 - ph) % 16) }
    stops := x.stops.map fun p => { p with sent := p.sent.map fun e => (e.1, e.2 + 1) }
    phase := ph
    step := x.step + 1 }

/-- One step of ring r: rotation, then every stop in order of position. -/
def ringStep (press r : Nat) (bad : List Nat) (k : Channel) : Channel × HopOut :=
  let k := k.setRing r ((k.ring r).rotate (4 ≤ r))
  (List.range 5).foldl (fun a i => hopInject r i (hopArrive press r bad i a)) (k, ⟨[], [], [], []⟩)

/-- The address of a register of the ring stop page of stop n (Table 10-9). -/
def stopAddr (c : Ch) (n o : Nat) : Nat := addrC c (0x50 + n) o

/-- Nothing of a request, in the tile of stop n; an edge stop is in no tile. -/
def occStop (n : Nat) : Occ := if n < 16 then occTile (tileN n) else {}
/-- The statistics of one step (R286) and the CRC events. -/
def hopCounts (c : Ch) (o : HopOut) (s : State) : State :=
  let s := forEach o.injected (fun x s =>
    ctAdd (stopAddr c x.1 0x48) 0 48 x.2 (ctAdd (stopAddr c x.1 0x40) 0 48 1 s)) s
  let s := forEach o.failed (fun x s => ev c 0x42 none (occStop x) (ctAdd (stopAddr c x 0x50) 0 16 1 s)) s
  forEach o.ejected (fun x s =>
    let s := ctAdd (stopAddr c x.1 (0x100 + 16 * x.2.src)) 0 48 1 s
    if x.2.laps = 0 then s
    else if x.2.laps = 1 then ctAdd (stopAddr c x.1 (0x108 + 16 * x.2.src)) 0 24 1 s
    else ctAdd (stopAddr c x.1 (0x108 + 16 * x.2.src)) 24 24 1 s) s

/-- Ring r of channel c runs (R283, R335). -/
def ringRuns (s : State) (c : Ch) (r : Nat) : Bool := serving s c && !((ch s c).ring r).retired

/-- A NAK waits at stop i of ring r: the downstream stop drops; on a broken hop the flit is re-sent once per lap (R279, R280). -/
def resendDue (s : State) (c : Ch) (r i : Nat) : Bool :=
  let x := (ch s c).ring r
  ringRuns s c r && decide (i < 5) && (x.stop ((i + 1) % 5)).dropping && !(x.stop i).sent.isEmpty &&
    (!(x.stop i).broken || match (x.stop i).sent with
      | (_, n) :: _ => decide (16 ≤ n)
      | [] => true)

/-- The positions of the hop from stop i: its own, and those before the next stop. -/
def hopPlaces (i : Nat) : List Nat :=
  if i = 4 then [13, 14, 15] else (List.range 16).filter fun p => decide (stopPos i ≤ p ∧ p < stopPos (i + 1))

/-- Re-send the failed flit and every later flit in order (R279). The later flits still on the hop would be dropped by the
receiving stop; they leave their slots here, and come again. -/
def resendAct (c : Ch) (r i : Nat) (s : State) : State :=
  let x := (ch s c).ring r
  let st := x.stop i
  let n := st.sent.length
  let x := x.setStop i { st with again := st.sent.map (·.1) ++ st.again, sent := [] }
  let d := (i + 1) % 5
  let x := x.setStop d { x.stop d with dropping := false }
  let x := (hopPlaces i).foldl (fun x p => x.setSlot p { x.slot p with flit := none }) x
  let o := occStop (stopId r i)
  let s := correctable c 6 o.tile false (modCh c (fun k => k.setRing r x) s)
  count c 0x43 none n o (ctAdd (stopAddr c (stopId r i) 0x50) 16 16 n s)

/-- A queue head of stop i has waited CLAIM_WAIT steps, or its turn register is occupied; it holds no claim and a full unclaimed
slot that the flit may use passes it (R272, R275). -/
def claimDue (s : State) (c : Ch) (r i : Nat) : Bool :=
  let x := (ch s c).ring r
  let st := x.stop i
  let q := x.slot (stopPos i)
  ringRuns s c r && decide (i < 5) && !st.claim && q.flit.isSome && q.claim.isNone &&
    (st.turn.isSome || st.heads.any fun f => decide (claimWait s c ≤ x.step - f.born) && tagOpen q.tag f.cls)
/-- Raise the claim (R272). -/
def claimAct (c : Ch) (r i : Nat) (s : State) : State :=
  modCh c (fun k =>
    let x := k.ring r
    let q := x.slot (stopPos i)
    k.setRing r ((x.setStop i { x.stop i with claim := true }).setSlot (stopPos i) { q with claim := some i })) s

/-- INJECTION_CLAIM (R272). -/
def execInjectionClaim (c : Ch) (r : Fin 8) (stop : Nat) (s : State) : Host.Outcome State Fault Refusal :=
  .next (if claimDue s c r stop then claimAct c r stop s else s)

/-- RESEND (R279). -/
def execResend (c : Ch) (r : Fin 8) (stop : Nat) (s : State) : Host.Outcome State Fault Refusal :=
  .next (if resendDue s c r stop then resendAct c r stop s else s)

/-- The slot table in force for ring r: the applied value of its register (Table 10-7). -/
def ringTable (s : State) (c : Ch) (r : Nat) : BitVec 32 := (appWord s (addrC c 0xA (0x50 + 8 * r))).setWidth 32
/-- A new slot table awaits its frame, and one has begun since its quiet point: slot 0 is at the edge stop (R278). The table of a
retired ring, which carries no flit, is applied all the same (R441). -/
def frameDue (s : State) (c : Ch) (r : Nat) : Bool :=
  let x := (ch s c).ring r
  if x.retired then serving s c && x.pend.isSome else ringRuns s c r && x.pend.any (decide <| · < x.step) && x.phase == 0
/-- The edge stop takes the new table and tags slot 0 (R278). -/
def frameAct (c : Ch) (r : Nat) (s : State) : State :=
  modCh c (fun k =>
    let x := k.ring r
    k.setRing r { (x.setSlot 0 { x.slot 0 with tag := slotTag (4 ≤ r) (ringTable s c r) 0 }) with
      table := ringTable s c r, pend := none }) s

/-- SLOT_FRAME_START (R278). -/
def execSlotFrameStart (c : Ch) (r : Fin 8) (s : State) : Host.Outcome State Fault Refusal :=
  .next (if frameDue s c r then frameAct c r s else s)

/-- The ring carries no flit and waits for none (R283, RING_ST.EMPTY). -/
def Ring.empty (x : Ring) : Bool := x.slots.toList.all fun q => q.flit.isNone
/-- Nothing of the ring is left to deliver (R283). -/
def Ring.idle (x : Ring) : Bool :=
  x.empty && x.stops.toList.all fun p =>
    p.sent.isEmpty && p.again.isEmpty && p.turn.isNone && !p.claim && p.rcv.isEmpty && p.rsp.isEmpty &&
      p.out.isEmpty && p.req.isEmpty

/-- The flits of a ring that have not been sent: turn registers and queues. -/
def waitingFlits (x : Ring) : List Flit :=
  x.stops.toList.flatMap fun p => p.turn.toList ++ p.rcv ++ p.rsp ++ p.out ++ p.req
/-- Every flit that the stops of a ring hold. -/
def heldFlits (x : Ring) : List Flit := (x.stops.toList.flatMap fun p => p.sent.map (·.1) ++ p.again) ++ waitingFlits x
/-- Every flit of a ring: what its stops hold, and what its slots carry. -/
def allFlits (x : Ring) : List Flit := heldFlits x ++ x.slots.toList.filterMap (·.flit)

end Sys2Proof.Machine
end

