-- ==== Sys2Proof/Machine/Egress.lean ====
section
/-! DEFINITION. The egress gaskets (R26 to R28, R34 to R36, R85, R182, R204): packets, which of them may cross on an edge,
what a crossing brings about, stalls, and the channel fence (R58, R345). -/

namespace Sys2Proof.Machine

/-- The lane of a request port (R35). -/
def portLane : Port → Nat | .a => 0 | .b => 1
/-- Free DIN landing places of a port's reserve (R467). -/
def dinFree (k : Channel) (p : Port) : Nat := 512 - (k.wexp.filter (·.port == p)).length
/-- A recovery action that holds the ingress is under way, or any whose step is being run again (Tables 2-2, 13-1). Row 5 of
Table 2-2 names failover and rollback; the hold of a shadow rebuild and of a ring retirement (Table 13-1, R335), which has no
row of its own, is counted with it (DESIGN CHOICE, assumption 86). -/
def pausing (k : Channel) : Bool :=
  match k.action with
  | some (.failover _ _) | some (.rebuild _ _ _) | some (.ringRetire _) => true
  | some (.broadcast _ _ _) | none => k.disagreed != 0
/-- The first cause of Table 2-2 that holds a port's ready low, by its row. Where two hold it low on one edge, the first is
the one that event 0x06 counts (DESIGN CHOICE, assumption 59). -/
def readyLow (s : State) (c : Ch) (p : Port) : Option Nat :=
  let k := ch s c
  if !running s || (k.pwr != .on && k.pwr != .draining) || k.fence then some 0
  else if 2 ≤ (k.vrs.filter fun x => x.lane == portLane p && decide (x.due < s.pclk)).length then some 1
  else if 8 ≤ handoffs k p then some 2
  else if dinFree k p < 4 then some 3
  else if s.pclk < k.pause then some 4
  else if pausing k then some 5
  else none

/-- An egress header; fields the packet's row of Table 3-3 does not list are driven zero (R71). -/
def mkHdr (op : BitVec 6) (a : AgentId) (tag : Tag) (l : LAddr) (i : InstId) (sub : BitVec 7) : Header :=
  ⟨op, a, tag, l, i, false, false, 0, false, sub⟩

/-- A packet without payload. -/
def mkPkt (h : Header) (due lane : Nat) (req : Option Nat) : EgrPkt := ⟨h, 0, 0, due, lane, .flow, req, none⟩

/-- Change the open requests with an order number, and close those that wait for nothing more (R79, R301). -/
def modReq (rid : Nat) (f : OpenReq → OpenReq) (k : Channel) : Channel :=
  { k with openReqs := (k.openReqs.map fun r => if r.rid = rid then f r else r).filter fun r =>
      r.rid != rid || r.awaitV || r.awaitD || r.awaitW || r.awaitP }
/-- The data of the writes of entry n, its own and those it has absorbed, counts as placed once nothing of it is left to write
(R246); they are then no longer in flight (R301), and the flow's merge buffer is free (R315). -/
def notePlaced (c : Ch) (t : TileId) (n : Nat) (s : State) : State :=
  match entry? (tile s c t) n with
  | none => s
  | some e =>
    if !e.toPlace.isEmpty || !e.absPtl.isEmpty || e.pend != 0 then s
    else forEach (e.owes ++ if e.placed then [e.rid] else [])
      (fun r => modCh c (modReq r fun q => { q with awaitP := false }))
      (grantMerge c t (modEntry c t n (fun e => { e with
        owes := [], merging := e.merging && e.op == some .wrPtl && !e.placed }) s))

/-- The gasket of an egress port. -/
def Channel.gasket (k : Channel) : EgrPort → List EgrPkt
  | .vrs => k.vrs | .dout => k.dout | .sno => k.sno | .mrq => k.mrq
/-- Replace a gasket's content. -/
def Channel.setGasket (k : Channel) (p : EgrPort) (l : List EgrPkt) : Channel :=
  match p with
  | .vrs => { k with vrs := l } | .dout => { k with dout := l }
  | .sno => { k with sno := l } | .mrq => { k with mrq := l }
/-- Schedule a packet. -/
def push (p : EgrPort) (pkt : EgrPkt) (k : Channel) : Channel := k.setGasket p (k.gasket p ++ [pkt])

/-- One packet that a tracker entry waited for has left (R246, R248). -/
def pendLess (c : Ch) (ent : Option (Nat × Nat)) (s : State) : State :=
  match ent with
  | none => s
  | some (t, n) => notePlaced c (tileN t) n (modEntry c (tileN t) n (fun e => wake s.tick { e with pend := e.pend - 1 }) s)

/-- The VRS packet of an open request has not been sent: its entry has sent no verdict, or it waits in a handoff buffer. -/
def unsent (k : Channel) (q : OpenReq) : Bool :=
  k.hoff.any (·.rid == q.rid) ||
    k.tiles.toList.any fun t => t.ents.any fun x => x.2.rid == q.rid && x.2.isRequest && !x.2.verdict

/-- The latency class of Table 18-1, event 0x0F. -/
def latClass (n : Nat) : Nat :=
  if n ≤ 2 then 0 else if n = 3 then 1 else if n < 256 then 2 else if n < 1024 then 3 else if n < 4096 then 4 else 5

/-- A channel whose every accepted request has its VRS packet ends an RC_CMD FENCE (R348). -/
def fenceDone (c : Ch) (s : State) : State :=
  if (ch s c).fence && (ch s c).cause != .none && !(ch s c).openReqs.any (·.awaitV) && cmOpen s (addrC c 0xD 0x48) then
    jEnd (Tab.getD s.cmSeq (addrC c 0xD 0x48) 0) .done 0 0 s
  else s

/-- A VRS or DOUT packet of a dead requester is dropped at its gasket and counted (R341): as a VRS packet (0x40) or a DOUT
crossing (0x3F), for Table 18-1 has no event of its own for it (DESIGN CHOICE, assumption 92). It may be the last that a FENCE
waits for (R348). -/
def dropOut (c : Ch) (p : EgrPort) (pkt : EgrPkt) (s : State) : State :=
  let o := occOf pkt.hdr.laddr pkt.hdr.agent pkt.hdr.inst
  let close (f : OpenReq → OpenReq) (s : State) : State := match pkt.req with
    | some r => modCh c (modReq r f) s
    | none => s
  match p with
  | .vrs => fenceDone c (close (fun q => { q with awaitV := false, awaitD := false }) (ev c 0x40 none o s))
  | .dout => close (fun q => { q with awaitD := false }) (ev c 0x3F none o s)
  | .sno | .mrq => s
/-- A VRS packet comes to its gasket, due on an edge; that of a dead requester is dropped and counted (R341). -/
def vrsIn (c : Ch) (pkt : EgrPkt) (s : State) : State :=
  if agentDead (ch s c) pkt.hdr.agent then dropOut c .vrs pkt s else modCh c (push .vrs pkt) s
/-- A flow's VRS packet that does not cross the rings: the ingress or the tracker answers itself. -/
def laneTwo (c : Ch) (v : Verdict) (a : AgentId) (tag : Tag) (l : LAddr) (i : InstId) (sub : BitVec 7) (due rid : Nat) : State → State :=
  vrsIn c (mkPkt (mkHdr v.code a tag l i sub) due 2 (some rid))

/-- Some verdict to the agent for the line, ordered before the unanswered snoop's flow, has not crossed yet. A holder that is no
request is older than every request in its chain (R178). -/
def ackWaits (k : Channel) (a : AgentId) (l : LAddr) : Bool :=
  ((k.tiles[home l]).ents.find? fun (x : Nat × Entry) =>
    x.2.snoops.any fun p => p.agent == a && p.laddr == l && p.out && p.ans.isNone).any fun x =>
      k.openReqs.any fun o => o.agent == a && o.laddr == l && decide (o.rid < x.2.rid) && o.awaitV && o.port.isSome &&
        o.op != .biConflict

/-- Send every BI_CONFLICT_ACK that waits no more (R186). -/
def flushAcks (c : Ch) (s : State) : State :=
  let go := (ch s c).biAcks.filter fun b => !ackWaits (ch s c) b.2.1 b.2.2.2.1
  let s := modCh c (fun k => { k with biAcks := k.biAcks.filter fun b => ackWaits k b.2.1 b.2.2.2.1 }) s
  forEach go (fun b s => laneTwo c .ack b.2.1 b.2.2.1 b.2.2.2.1 b.2.2.2.2 0 (s.pclk + 1) b.1 s) s

/-- A packet has crossed VRS: the first of its request is timed (0x0F, 0x10), and the request may close. -/
def crossVrs (c : Ch) (pkt : EgrPkt) (s : State) : State :=
  let o := occOf pkt.hdr.laddr pkt.hdr.agent pkt.hdr.inst
  let s := ev c 0x40 none o s
  let s := match pkt.req.bind fun r => (ch s c).openReqs.find? (·.rid == r) with
    | none => s
    | some q =>
      let s := if q.answered then s
        else count c 0x10 none (s.pclk - q.edge) o (ev c 0x0F (some (latClass (s.pclk - q.edge))) o s)
      modCh c (modReq q.rid fun q => { q with answered := true, awaitV := false }) s
  fenceDone c s

/-- A packet has crossed DOUT. -/
def crossDout (c : Ch) (pkt : EgrPkt) (s : State) : State :=
  let o := occOf pkt.hdr.laddr pkt.hdr.agent pkt.hdr.inst
  let s := ev c 0x1A (some (pkt.hdr.subtype.toNat / 8 % 4)) o (ev c 0x3F none o s)
  let s := if pkt.hdr.poison then ev c 0x4C none o s else s
  match pkt.req with
  | none => s
  | some r => modCh c (modReq r fun q => { q with awaitD := false }) s

/-- A snoop has crossed SNO (R204 keeps the last 16 crossings). -/
def crossSno (c : Ch) (pkt : EgrPkt) (s : State) : State :=
  let storm := pkt.kind == .storm
  let o := occPkt (ch s c) .sno pkt
  let s := ev c 0x19 (some (pkt.hdr.opcode.toNat - 0x20)) o s
  let s := if storm then ev c 0x16 none o s else s
  let s := modCh c (fun k => { k with sno16 := (storm :: k.sno16).take 16 }) s
  match pkt.ent with
  | none => s
  | some (t, n) => modEntry c (tileN t) n (fun e => { e with snoops := e.snoops.map fun p =>
      if p.agent == pkt.hdr.agent && p.laddr == pkt.hdr.laddr then { p with crossed := true } else p }) s

/-- A packet has crossed MRQ (R203, R246). -/
def crossMrq (c : Ch) (pkt : EgrPkt) (s : State) : State :=
  let o := occPkt (ch s c) .mrq pkt
  let s := ev c 0x3C (some (pkt.hdr.opcode.toNat - 0x38)) o s
  let s := if pkt.hdr.poison then ev c 0x4C none o s else s
  let s := if pkt.hdr.opcode == 0x39 then modCh c (fun k => { k with lastDd := s.tick, settled := false }) s else s
  if pkt.hdr.opcode == 0x3A then pendLess c pkt.ent s else s

/-- What a crossing brings about; a packet that leaves after its due edge is late (R36). -/
def crossed (c : Ch) (p : EgrPort) (pkt : EgrPkt) (s : State) : State :=
  let s := if pkt.due < s.pclk then
    ev c 0x0C (some (match p with | .vrs => 0 | .dout => 1 | .sno => 2 | .mrq => 3)) (occPkt (ch s c) p pkt) s else s
  match p with
  | .vrs => crossVrs c pkt s
  | .dout => crossDout c pkt s
  | .sno => crossSno c pkt s
  | .mrq => crossMrq c pkt s

/-- A packet may cross now: its due edge has come, and its order allows it. RDATA waits for its verdict (R85) and for the RDATA
of older requests for its line (R22, R79); a snoop for those its flow has sent before it for the line (R144, R157), and until
its agent has received what it is owed for the line by requests ordered before the snoop's flow (R182). The order of verdicts is
verdictMay's. What MRQ holds as a fence rises, and the fence does not withdraw, may still cross (R58). -/
def mayCross (k : Channel) (now : Nat) (p : EgrPort) (pkt : EgrPkt) : Bool :=
  decide (pkt.due ≤ now) &&
    match p with
    | .vrs => true
    | .dout => (match pkt.req with
      | none => true
      | some r => !k.openReqs.any fun q => (q.rid == r && q.awaitV) ||
          (q.laddr == pkt.hdr.laddr && decide (q.rid < r) && q.awaitD))
    | .sno => (match pkt.ent.bind fun x => entry? k.tiles[tileN x.1] x.2 with
      | none => true
      | some e => (k.sno.find? fun x => x.ent == pkt.ent && x.hdr.laddr == pkt.hdr.laddr) == some pkt &&
          !k.openReqs.any fun q =>
          q.agent == pkt.hdr.agent && q.laddr == pkt.hdr.laddr && decide (q.rid < e.rid) && (q.awaitV || q.awaitD) &&
            q.port.isSome)
    | .mrq => true

/-- The packets for one line cross in the order in which they were scheduled. -/
def inLineOrder (l : List EgrPkt) (pkt : EgrPkt) : Bool :=
  (l.takeWhile fun x => x != pkt).all fun x => x.hdr.laddr != pkt.hdr.laddr

/-- The request takes part in its line's order: it came on a port, and the gate checked it. -/
def OpenReq.ordered (q : OpenReq) : Bool := q.port.isSome && q.op != .biConflict
/-- Packets that answer two requests of one agent and tag for a line go by age stamp (R79); else the line's order holds (R182). -/
def answersFirst (q r : OpenReq) : Bool :=
  if q.agent == r.agent && q.tag == r.tag then decide (q.rid < r.rid)
  else q.ordered && r.ordered && decide (q.place < r.place ∨ q.place = r.place ∧ q.rid < r.rid)
/-- The verdict of request r waits for that of another request for its line, which crosses on an earlier edge or on this one in
a lower lane, `lower` (R22, R79, R182): of one agent and tag for all that the other is owed, else for a verdict that has been
sent. -/
def olderFirst (k : Channel) (lower : List EgrPkt) (r : OpenReq) : Bool :=
  k.openReqs.any fun q => q.laddr == r.laddr && answersFirst q r &&
    (q.awaitV && !lower.any (·.req == some q.rid) && (!unsent k q || (q.agent == r.agent && q.tag == r.tag)) ||
      q.awaitD && q.agent == r.agent && q.tag == r.tag)
/-- A VRS packet may cross above `lower`. -/
def verdictMay (k : Channel) (now : Nat) (lower : List EgrPkt) (x : EgrPkt) : Bool :=
  mayCross k now .vrs x && !(x.req.bind fun r => k.openReqs.find? (·.rid == r)).any (olderFirst k lower)

/-- What a lane of a port presents since an earlier edge (R27). -/
def heldOn (k : Channel) (p : EgrPort) (n : Nat) : List EgrPkt :=
  k.shown.filterMap fun x => if x.1 == p && x.2.1 == n && (k.gasket p).contains x.2.2 then some x.2.2 else none

/-- The first packet of clear-sky lane n, if it may cross (R35). -/
def laneFirst (k : Channel) (now n : Nat) (lower : List EgrPkt) : List EgrPkt :=
  ((k.vrs.find? (·.lane == n)).filter (verdictMay k now lower)).toList

/-- The earliest-scheduled flow packet that may cross above `lower`; one that another lane holds stays there. -/
def flowNext (k : Channel) (now : Nat) (lower : List EgrPkt) : List EgrPkt :=
  (k.vrs.find? fun x => x.lane == 2 && !lower.contains x && !k.shown.any (fun y => y.1 == EgrPort.vrs && y.2.2 == x) &&
    verdictMay k now lower x).toList

/-- The packet of lane n of VRS: what it holds, else the first clear-sky packet of lanes 0 and 1, else a flow packet, the
earliest-scheduled in the lowest free lane (R27, R35). -/
def vrsLane (k : Channel) (now n : Nat) (lower : List EgrPkt) : List EgrPkt :=
  if !(heldOn k .vrs n).isEmpty then heldOn k .vrs n
  else
    let c := if n < 2 then laneFirst k now n lower else []
    if c.isEmpty then flowNext k now lower else c
/-- The packets that VRS presents on an edge, by lane. -/
def vrsLanes (k : Channel) (now : Nat) : List EgrPkt × List EgrPkt × List EgrPkt :=
  let l0 := vrsLane k now 0 []
  let l1 := vrsLane k now 1 l0
  (l0, l1, vrsLane k now 2 (l0 ++ l1))
/-- The packet that a port of one lane would present, did it hold none: on SNO recovery snoops go first (R337). -/
def nextOut (k : Channel) (now : Nat) (p : EgrPort) : Option EgrPkt :=
  let ok := (k.gasket p).filter (mayCross k now p)
  match p with
  | .sno => (match ok.find? (fun (x : EgrPkt) => x.kind == SnpKind.recovery) with | some x => some x | none => ok.head?)
  | .mrq => ok.find? (inLineOrder k.mrq)
  | _ => ok.head?

/-- What a port of one lane presents as an edge comes (R27). -/
def presents (k : Channel) (now : Nat) (p : EgrPort) : List EgrPkt :=
  if (heldOn k p 0).isEmpty then (nextOut k now p).toList else heldOn k p 0
/-- The packets that cross a port on this edge if the partner's ready is high (R26): those it presents, lane 0 first. -/
def crossing (k : Channel) (p : EgrPort) : List EgrPkt := heldOn k p 0 ++ heldOn k p 1 ++ heldOn k p 2

/-- One more than the edge of the last crossing of an egress port (R26). -/
def Channel.lastOut (k : Channel) : EgrPort → Nat
  | .vrs => k.lastVrs | .dout => k.lastDout | .sno => k.lastSno | .mrq => k.lastMrq
/-- Record a crossing of an egress port: nothing of it is presented any more. -/
def crossedAt (p : EgrPort) (now : Nat) (k : Channel) : Channel :=
  let k := { k with shown := k.shown.filter (·.1 != p) }
  match p with
  | .vrs => { k with lastVrs := now + 1 } | .dout => { k with lastDout := now + 1 }
  | .sno => { k with lastSno := now + 1 } | .mrq => { k with lastMrq := now + 1 }

/-- What the ports present on edge `now`: what they held, else what their gaskets hold as the edge comes, whatever happens on the
edge itself (R27, R28). -/
def present (now : Nat) (k : Channel) : Channel :=
  let one (p : EgrPort) (n : Nat) (l : List EgrPkt) : List (EgrPort × Nat × EgrPkt) := l.map fun x => (p, n, x)
  let v := vrsLanes k now
  let of (p : EgrPort) : List (EgrPort × Nat × EgrPkt) := one p 0 (presents k now p)
  { k with shown := one .vrs 0 v.1 ++ one .vrs 1 v.2.1 ++ one .vrs 2 v.2.2 ++ of .dout ++ of .sno ++ of .mrq }

/-- The timer of a snoop that the clear-sky path sends starts at its due edge (R281). -/
def startTimers (edge tick : Nat) (k : Channel) : Channel :=
  (k.sno.filter fun x => decide (x.lane < 2 ∧ x.due = edge)).foldl (fun k x => match x.ent with
    | none => k
    | some (t, n) =>
      let y := k.tiles[tileN t]
      match entry? y n with
      | none => k
      | some e => { k with tiles := k.tiles.set (tileN t) { y with ents := Tab.put y.ents n { e with
          snoops := e.snoops.map fun p =>
            if p.agent == x.hdr.agent && p.laddr == x.hdr.laddr then { p with sentAt := tick } else p } } }) k
/-- What an edge does in a channel: the ports present what is due (R27), and timers start (R281). -/
def edgeChan (edge tick : Nat) (k : Channel) : Channel := startTimers edge tick (present edge k)
/-- The ingress readies of a channel as an edge comes (R28, R29): those that are low are counted (0x06). -/
def edgeReady (c : Ch) (s : State) : State :=
  let low (p : Port) (s : State) : State := match readyLow s c p with
    | none => s
    | some q => ev c 0x06 (some q) {} s
  let a := (readyLow s c .a).isSome
  let b := (readyLow s c .b).isSome
  let s := modCh c (fun k => { k with wasLowA := a, wasLowB := b }) s
  if serving s c then ev c 0x01 none {} (low .b (low .a s)) else s

/-- One PCLK edge comes (R5): the clear-sky updates whose verdict edge it is are written (R105), it is counted in every channel in
service (0x01), and the ingress readies and what the egress ports present are those of the state that it finds. -/
def edgeTick (s : State) : State :=
  let s := forEach allCh (fun c s => landBy c (s.pclk + 1) s) (forEach allCh writeSamples s)
  forEach allCh edgeReady { s with pclk := s.pclk + 1, chans := s.chans.map (edgeChan (s.pclk + 1) s.tick) }
/-- PCLK edges pass. -/
def passEdges : Nat → State → State
  | 0, s => s
  | n + 1, s => passEdges n (edgeTick s)

/-- The stall bit of a port clears on a crossing (R34). -/
def clearStall (p : EgrPort) (k : Channel) : Channel :=
  match p with
  | .vrs => { k with stallVrs := false } | .dout => { k with stallDout := false }
  | .sno => { k with stallSno := false } | .mrq => k

/-- A crossing on this edge with the partner's ready high (R26, R36); a port moves its packets once an edge. -/
def crossAct (c : Ch) (p : EgrPort) (s : State) : State :=
  let out := crossing (ch s c) p
  if out.isEmpty || (ch s c).lastOut p == s.pclk + 1 then s
  else
    let s := modCh c (fun k =>
      clearStall p (crossedAt p s.pclk (k.setGasket p (out.foldl (fun l x => l.erase x) (k.gasket p))))) s
    forEach out (crossed c p) s

/-- EGRESS_CROSSING (R36). A verdict that has crossed may let an acknowledgement go (R186). -/
def execEgressCrossing (c : Ch) (p : EgrPort) (gap : Nat) (s : State) : Host.Outcome State Fault Refusal :=
  .next (if serving s c then flushAcks c (crossAct c p (passEdges gap s)) else passEdges gap s)

/-- The ready of a port that can stall may have been low for 4,096 edges: it has moved nothing on them, and its bit is clear
(R34). -/
def stallDue (s : State) (c : Ch) (p : EgrPort) : Bool :=
  serving s c && decide ((ch s c).lastOut p + 4096 ≤ s.pclk + 1) &&
    match p with
    | .vrs => !(ch s c).stallVrs | .dout => !(ch s c).stallDout | .sno => !(ch s c).stallSno | .mrq => false
/-- The stall bit, its record and its count (R34). -/
def stallAct (c : Ch) (p : EgrPort) (s : State) : State :=
  let s := modCh c (fun k => match p with
    | .vrs => { k with stallVrs := true } | .dout => { k with stallDout := true }
    | .sno => { k with stallSno := true } | .mrq => k) s
  let n := match p with | .vrs => 0 | .dout => 1 | .sno => 2 | .mrq => 3
  ev c 0x0D none {} (record c 10 2 0x1B [BitVec.ofNat 64 n] false s)

/-- EGRESS_STALL (R34). -/
def execEgressStall (c : Ch) (p : EgrPort) (s : State) : Host.Outcome State Fault Refusal :=
  .next (if stallDue s c p then stallAct c p s else s)

-- ## Arrivals from the rings

/-- A flow's packet reaches its gasket (R269), due on the next edge (R28). A fenced channel issues nothing new on SNO or MRQ
(R58); VRS and DOUT packets of a dead requester are dropped and counted (R341). -/
def gasketIn (c : Ch) (p : EgrPort) (pkt : EgrPkt) (s : State) : State :=
  let dead := agentDead (ch s c) pkt.hdr.agent
  match p with
  | .vrs => vrsIn c { pkt with due := s.pclk + 1 } s
  | .dout =>
    if dead then dropOut c .dout pkt s
    else modCh c (push .dout { pkt with due := s.pclk + 1 }) s
  | .sno =>
    if (ch s c).fence || dead then s else modCh c (push .sno { pkt with due := s.pclk + 1 }) s
  | .mrq => if (ch s c).fence then s else modCh c (push .mrq { pkt with due := s.pclk + 1 }) s

-- ## The fence (R58, R345, R346)

/-- Codes of Table 13-3. -/
def FenceCause.code : FenceCause → Nat
  | .none => 0 | .command => 1 | .mcLost => 2 | .flowStore => 3 | .lcTags => 4 | .tracker => 5 | .engines => 6
  | .steward => 7 | .watchdog => 8 | .ring => 9 | .secondFault => 10

/-- The flit carries the VRS packet of a request. -/
def Flit.answers (f : Flit) (rid : Nat) : Bool :=
  match f.body with
  | .egress .vrs p => p.req == some rid
  | _ => false
/-- The VRS packet of a request waits in its gasket, or is on its way there over a ring in service. -/
def verdictOut (k : Channel) (rid : Nat) : Bool :=
  k.vrs.any (·.req == some rid) || k.rings.toList.any fun x => !x.retired && (allFlits x).any (·.answers rid)
/-- The request still needs its VRS packet when the fence rises (R58). -/
def owedFenced (k : Channel) (q : OpenReq) : Bool := q.awaitV && q.port.isSome && !verdictOut k q.rid
/-- The MEM_RD_DD of a request is queued on MRQ. -/
def ddQueued (k : Channel) (rid : Nat) : Bool := k.mrq.any fun x => x.hdr.opcode == 0x39 && x.req == some rid
/-- A direct-delivery read was issued for the request; one that the fence withdraws from MRQ counts as never sent (R58, R203). -/
def specRead? (k : Channel) (q : OpenReq) : Bool :=
  !ddQueued k q.rid && (k.hoff.any (fun w => w.rid == q.rid && w.dd) ||
    k.tiles.toList.any fun t => t.ents.any fun x => x.2.rid == q.rid && x.2.ddIssued)
/-- ERR FENCED for one request (R58, Table 3-6); DDX tells whether a direct-delivery read was issued for it (R83). -/
def fencedErr (k : Channel) (now : Nat) (q : OpenReq) : EgrPkt :=
  mkPkt (mkHdr Verdict.err.code q.agent q.tag q.laddr q.inst (endSub errFenced (specRead? k q))) (now + 1) 2 (some q.rid)

/-- The requests that a fence answers no longer wait: their entries count their verdict as sent, and no engine runs. -/
def markFenced (owed : List OpenReq) (k : Channel) : Channel :=
  let mine (rid : Nat) : Bool := owed.any (·.rid == rid)
  { k with
    openReqs := k.openReqs.map fun q => if mine q.rid then { q with awaitD := false } else q
    biAcks := []
    hoff := []
    tiles := k.tiles.map fun t => { t with
      run0 := none
      run1 := none
      ents := t.ents.map fun x => if mine x.2.rid && x.2.isRequest then (x.1, { x.2 with verdict := true }) else x } }
/-- Every request that still needs its VRS packet is answered ERR FENCED, a waiting BI_CONFLICT too (R58); a speculative read that
its ERR has dropped is counted undone (R112). -/
def answerFenced (c : Ch) (s : State) : State :=
  let k := ch s c
  let owed := k.openReqs.filter (owedFenced k)
  let s := forEach (owed.filter (specRead? k)) (fun q => ev c 0x0B (some 2) (occOf q.laddr q.agent q.inst)) s
  forEach (owed.map (fencedErr k s.pclk)) (vrsIn c) (modCh c (markFenced owed) s)

/-- The pool access of a flow is open, and ends (R474): its journal entry, `PA_ST.ERR`, and the request it was. -/
def paEnd (c : Ch) (rid err : Nat) (s : State) : State :=
  match (ch s c).paBusy with
  | none => s
  | some (seq, _, r) =>
    if r != rid then s
    else
      let s := modCh c (fun k => { modReq rid (fun o => { o with awaitV := false }) k with
        paBusy := none, paErr := BitVec.ofNat 6 err, paRetry := none }) s
      if err = 0 then jEnd seq .done 0 0 s else jEnd seq .failed 4 err s
/-- What a fence takes back of MRQ, as never sent: on the loss of the memory controller every queued packet (R58), for any cause
the MEM_RD_DD, none of which crosses after a fence (R203; DEDUCED, assumption 90). -/
def withdrawn (cause : FenceCause) (k : Channel) : Channel :=
  { k with mrq := if cause == .mcLost then [] else k.mrq.filter fun x => x.hdr.opcode != 0x39 }
/-- Fence channel c for a cause: HA_FENCE rises, FENCE_CAUSE is recorded with its record, requests are answered, an open pool
access ends with ERR FENCED (R474; DEDUCED, assumption 78), and MRQ packets are withdrawn (R58, R203). A channel already fenced
for a cause keeps it. `planted` says that the cause arose in a planted row (R388). -/
def fenceAs (c : Ch) (cause : FenceCause) (planted : Bool) (s : State) : State :=
  if (ch s c).cause != .none then modCh c (withdrawn cause) s
  else
    let s := answerFenced c (modCh c (fun k => { k with fence := true, cause := cause }) s)
    let s := ((ch s c).paBusy.map (·.2.2)).elim s fun r => paEnd c r errFenced s
    fenceDone c (record c 8 3 0x17 [BitVec.ofNat 64 cause.code] planted (modCh c (withdrawn cause) s))
/-- Fence channel c for a cause that no planted row gave. -/
def fenceFor (c : Ch) (cause : FenceCause) (s : State) : State := fenceAs c cause false s

-- ## Recovery actions (R327, R329, R330)

/-- The stewards write a checkpoint of their state in both copies of their store (R329), from which the watchdog counts anew
(R331). -/
def checkpoint (tick : Nat) (k : Channel) : Channel :=
  { k with ckptAt := tick, ckpt := Vector.replicate 2 k.action, disagreed := 0 }
/-- The next action asked for begins, its first checkpoint at this tick. -/
def beginAction (tick : Nat) (k : Channel) : Channel :=
  match k.action, k.queueOf with
  | none, a :: r => checkpoint tick { k with action := some a, queueOf := r }
  | _, _ => k
/-- The tile whose stop tells the stewards of the action's cause. -/
def Action.tile : Action → Option Nat
  | .failover t _ | .rebuild t _ _ | .broadcast t _ _ => some t
  | .ringRetire _ => none
/-- The stop's notice has been of the action. -/
def Action.notes (a : Action) (stop : Nat) : Bool :=
  match a with
  | .ringRetire r => (List.range 5).any fun i => stopId r i == stop
  | a => a.tile == some stop
/-- The action waits or runs. -/
def asked (k : Channel) (a : Action) : Bool := k.queueOf.contains a || k.action == some a
/-- A fault of Table 13-1 in a simplex channel fences it (R330). -/
def secondFault (c : Ch) (planted : Bool) (s : State) : State :=
  if (ch s c).simplex then fenceAs c .secondFault planted s else s
/-- A fault asks the stewards for a recovery action, once; a fenced channel takes none. -/
def askAction (c : Ch) (a : Action) (planted : Bool) (s : State) : State :=
  if asked (ch s c) a || (ch s c).cause != .none then s
  else if (ch s c).simplex then fenceAs c .secondFault planted s
  else modCh c (fun k => beginAction s.tick { (a.tile.elim id notify) k with queueOf := k.queueOf ++ [a] }) s
/-- The running action has ended. -/
def endAction (c : Ch) (s : State) : State :=
  modCh c (fun k =>
    let k := match k.action with | some a => readNotices a.notes k | none => k
    beginAction s.tick (checkpoint s.tick { k with action := none })) s
/-- The broadcast-invalidation recovery of a block is under way in a tile. -/
def biRuns (x : Tile) (ext : Bool) (row : Nat) : Bool := x.biRows.any fun r => r.1 == ext && r.2.1 == row
/-- A step of the background part of a broadcast-invalidation recovery: its checkpoint (R329, R331). -/
def biStep (c : Ch) (s : State) : State := modCh c (checkpoint s.tick) s
/-- A recovery action runs (RC_ST.ACTIVE): the stewards', or the background flow of a broadcast invalidation. -/
def recovering (k : Channel) : Bool := k.action.isSome || k.tiles.toList.any fun t => !t.biRows.isEmpty

-- ## Uncorrectable directory errors (R128)

/-- The rows at fault when a lookup reports an uncorrectable directory error (R128): the bad blocks, or where every block is
good the blocks of the ways that contradict each other. -/
def faultRows (k : Channel) (l : LAddr) : List (Nat × Nat) :=
  let t := tileOf l
  let bad := (dirRows l).filter fun r => rowOutcome k (rowKey r.1 t r.2) == .bad
  if !bad.isEmpty then bad
  else
    let ways (set : Nat) : List (Nat × Nat) := ((List.range 16).filter fun w => match slotAt k t set w with
      | .bad => true
      | .cirrus tag _ _ _ => tag == sfTag l && set == cirrusSet l
      | .stratus tag _ _ _ _ => tag == sfTag l && set == stratusSet l
      | .invalid => false).map fun w => (0, slotRow set w)
    (ways (cirrusSet l) ++ ways (stratusSet l)).eraseDups

/-- An uncorrectable block of the snoop filter is recorded and goes to broadcast-invalidation recovery (Table 12-3), once. -/
def dirBlock (c : Ch) (t : TileId) (ext : Bool) (row : Nat) (line : Word) (s : State) : State :=
  if asked (ch s c) (.broadcast t ext row) || biRuns (tile s c t) ext row then s
  else
    let planted := rowPlanted (ch s c) (rowKey (if ext then 1 else 0) t row)
    askAction c (.broadcast t ext row) planted (uncorrectable c 0 t row 0 line planted s)
/-- An uncorrectable directory error (R128). -/
def dirError (c : Ch) (l : LAddr) (s : State) : State :=
  forEach (faultRows (ch s c) l) (fun r s => dirBlock c (home l) (r.1 == 1) r.2 (subject l 0 0) s) s

/-- A block of the line's sets waits for its broadcast-invalidation recovery to begin. -/
def recoveryAsked (k : Channel) (l : LAddr) : Bool :=
  (dirRows l).any fun r => asked k (.broadcast (tileOf l) (r.1 == 1) r.2)
/-- A block of the line's sets waits for or undergoes broadcast-invalidation recovery. -/
def underRecovery (k : Channel) (l : LAddr) : Bool :=
  recoveryAsked k l || (dirRows l).any fun r => biRuns k.tiles[home l] (r.1 == 1) r.2

end Sys2Proof.Machine
end

