-- ==== Sys2Proof/Machine/LineCache.lean ====
section
/-! DEFINITION. The home line cache (09): frames, lookup, ways and their failures (R256, R257), the choice of a frame (R247),
victims (R248), placement (R245, Table 9-2), fills and prefetches (R249 to R251); and the allocation of tracker entries and
non-tracker slots (R81, R208 to R210) that they and the flows use. -/

namespace Sys2Proof.Machine

-- ## Tracker entries and home tags

/-- A fresh entry of a kind for a line: no request fields, nothing found, nothing sent. -/
def Entry.blank (kind : EKind) (work : Work) (l : LAddr) (rid : Nat) (age : BitVec 32) (dl : BitVec 21) : Entry where
  kind := kind
  work := work
  fromEvict := false
  rid := rid
  seat := rid
  port := none
  op := none
  laddr := l
  agent := 0
  tag := 0
  subtype := 0
  inst := 0
  prio := 0
  age := age
  deadline := dl
  head := true
  ddIssued := false
  dataRcvd := false
  arrived := true
  started := false
  resume := 0
  progress := 0
  cutoffs := 0
  oddRan := false
  runLen := 0
  waiting := false
  readyAt := 0
  watch := 0
  starved := none
  reg0 := 0
  reg1 := 0
  reg2 := 0
  reg3 := 0
  fetched := false
  found := .i
  stamp := 0
  readAt := none
  terms := ⟨true, false, false, false⟩
  region := false
  demote := false
  snoops := []
  source := .memory
  plan := none
  atMemory := false
  rdata := none
  rsrc := 0
  toPlace := []
  absPtl := []
  xfer := false
  absorbedBy := none
  owes := []
  operand := none
  opMissing := false
  value := none
  mem := none
  memIn := false
  memAns := none
  placed := false
  merging := false
  updated := false
  grant := 0
  verdict := false
  sentData := false
  aborted := false
  ended := false
  pend := 0

/-- The home tag of entry or slot n as allocated now (R81). -/
def homeTagNow (k : Channel) (t n : Nat) : Tag := homeTag t n (genOf k.tiles[tileN t] n)

/-- Put an entry into index n: its generation advances (R208), the allocation is counted (0x28). -/
def openEntry (c : Ch) (t : TileId) (n : Nat) (e : Entry) (s : State) : State :=
  let s := modTile c t (fun x => { x with
    ents := Tab.put x.ents n e
    gens := Tab.put x.gens n (genOf x n + 1) }) s
  let q := match e.kind with | .anchored => 1 | .evict => 2 | _ => 0
  let o : Occ := if e.isRequest then occOf e.laddr e.agent e.inst else occTile t
  ev c 0x28 (some q) o s

/-- A background entry for a line, if the general pool has one (R208, R210); a step that finds none waits its turn (R212). -/
def openBackground (c : Ch) (l : LAddr) (work : Work) (s : State) : State × Option Nat :=
  let t := home l
  let ws := bgQueue (ch s c) t
  match (if bgFree s c t (work, l) then freeEntry (tile s c t) else none) with
  | none => (modTile c t (fun x => { x with
      bgWaits := if ws.any fun y => (y.1, y.2.1) == (work, l) then ws else ws ++ [(work, l, false)] }) s, none)
  | some n =>
    let e := Entry.blank .background work l (ch s c).nextRid (ch s c).age (deadlineOf s c clsBackground)
    (openEntry c t n e (modTile c t (fun x => { x with bgWaits := bgLess (ch s c) t (work, l) }) s), some n)

/-- A memory request or write of entry n leaves its tile by ring (Table 3-2: AGENT 0 and the home tag). -/
def sendMrq (c : Ch) (t : TileId) (n : Nat) (op : BitVec 6) (l : LAddr) (data : Line) (mask : Word) (poison : Bool)
    (inst : InstId) (sub : BitVec 7) (s : State) : State :=
  modCh c (fun k =>
    let h := { mkHdr op 0 (homeTagNow k t n) l inst sub with poison := poison }
    sendOut t .mrq ⟨h, data, mask, 0, 2, .flow, none, some (t.val, n)⟩ k) s

/-- A MEM_WR that entry n waits for (R246). -/
def sendMemWr (c : Ch) (t : TileId) (n : Nat) (l : LAddr) (data : Line) (poison : Bool) (inst : InstId) (s : State) : State :=
  modEntry c t n (fun e => { e with pend := e.pend + 1 }) (sendMrq c t n 0x3A l data (~~~0) poison inst 0 s)

-- ## Run-ahead plans

/-- Discard the plans that satisfy a test, counting each (R188, 0x23). -/
def discardPlans (c : Ch) (p : Entry → Bool) (s : State) : State :=
  let gone := allTiles.flatMap fun t => ((tile s c t).ents.filter fun x => x.2.plan.isSome && p x.2).map fun x => occE t x.2
  if gone.isEmpty then s
  else
    let s := modCh c (fun k => { k with tiles := k.tiles.map fun t => { t with
      ents := t.ents.map fun x => if p x.2 then (x.1, { x.2 with plan := none }) else x } }) s
    forEach gone (ev c 0x23 (some 2)) s

-- ## Frames

/-- Row of a way's tag entry (Table 21-7). -/
def tagRow (set way : Nat) : Nat := set * 2 + way / 8
/-- A tag block of one copy is uncorrectable. -/
def tagBad (k : Channel) (t set way copy : Nat) : Bool := rowOutcome k (rowKey (3 + copy) t (tagRow set way)) == .bad
/-- The tag entry of a frame: copy 0, or copy 1 where copy 0's block is uncorrectable (Table 12-3). -/
def tagAt (k : Channel) (t set way : Nat) : TagE :=
  TagE.decode (fixedWord k (if tagBad k t set way 0 then 4 else 3) t (tagRow set way) (way % 8))
/-- An uncorrectable tag block of one copy is taken from the other (Table 12-3). -/
def takeCopy (t row copy : Nat) (k : Channel) : Channel :=
  if rowOutcome k (rowKey (3 + copy) t row) == .bad then
    (List.range 8).foldl (fun k' w => putMem (3 + copy) t row w (fixedWord k (4 - copy) t row w) k') k
  else k
/-- Write a tag entry in both copies, whose blocks are checked first (R307). -/
def putTag (t set way : Nat) (e : TagE) (k : Channel) : Channel :=
  let k := takeCopy t (tagRow set way) 1 (takeCopy t (tagRow set way) 0 k)
  putMem 4 t (tagRow set way) (way % 8) e.encode (putMem 3 t (tagRow set way) (way % 8) e.encode k)
/-- The key of a frame's data row. -/
def frameKey (t set way : Nat) : Nat := rowKey 2 t (set * 16 + way)
/-- A frame's line as a read corrects it. -/
def frameData (k : Channel) (t set way : Nat) : Line :=
  (List.range 8).foldl (fun l w => l ||| ((fixedWord k 2 t (set * 16 + way) w).setWidth 512 <<< (64 * w))) 0
/-- Write a frame's line. -/
def putFrame (t set way : Nat) (d : Line) (k : Channel) : Channel :=
  (List.range 8).foldl (fun k w => putMem 2 t (set * 16 + way) w (lineWord d w) k) k
/-- An invalid tag entry. -/
def TagE.none : TagE := ⟨0, false, false, false, false, false⟩

/-- The set is retired: its lookups miss (Table 12-6). -/
def setRetired (k : Channel) (t set : Nat) : Bool := k.setRet.any fun r => r.1 == t && r.2.1 == set && r.2.2.2
/-- The bank reports a tag miss on every lookup of the set: OFF, gated, all ways disabled and drained, or a retired set (R106,
R257, R261). -/
def lcBlind (k : Channel) (t set : Nat) : Bool :=
  k.lc == .off || k.tiles[tileN t].gated || k.tiles[tileN t].dark || setRetired k t set

/-- The way whose frame holds a line, whatever the cache's state; a frame with FILL set reads as a miss (R243). -/
def frameOf (k : Channel) (l : LAddr) : Option Nat :=
  (List.range 16).find? fun w =>
    let e := tagAt k (tileOf l) (lcSet l) w
    e.valid && !e.fill && e.tag == lcTag l
/-- A lookup of a line (R243): the way that hits. -/
def lcFind (k : Channel) (l : LAddr) : Option Nat :=
  if lcBlind k (tileOf l) (lcSet l) then none else frameOf k l
/-- The tag hit of a line, and whether its frame is DIRTY. -/
def lcHit (k : Channel) (l : LAddr) : Option Bool := (lcFind k l).map fun w => (tagAt k (tileOf l) (lcSet l) w).dirty

-- ## Maintenance jobs as they bear on placement

/-- The job acts on the line (R253, R255, R257, R262, R406, Table 12-6). -/
def jobCovers (k : JobKind) (l : LAddr) : Bool :=
  match k with
  | .range _ all base size => all || inRange l base size
  | .flush _ base size => inRange l base size
  | .retirePage p => regionOf l == p
  | .bankDrain t => tileOf l == t
  | .retireSet t set => tileOf l == t && lcSet l == set
  | .vacateLc | .vacateDir => true
  | _ => false
/-- A running operation forbids allocation and fills for the line (R255). -/
def covered (k : Channel) (l : LAddr) : Bool := k.jobs.any fun j => jobCovers j.kind l
/-- A way's drain runs (R257). -/
def wayDraining (k : Channel) (t w : Nat) : Bool := k.jobs.any fun j => j.kind == .wayDrain t w

/-- LC_WAYOFF of tile t as applied (Table 9-9). -/
def wayOff (s : State) (c t : Nat) : BitVec 16 := BitVec.ofNat 16 (cfC s c 8 (0x60 + 8 * (t / 4)) (16 * (t % 4)) 16)
/-- A way is enabled (R256). -/
def wayEnabled (s : State) (c : Ch) (t w : Nat) : Bool :=
  !(wayOff s c t).getLsbD w && !((ch s c).tiles[tileN t]).wayFail.getLsbD w && !wayDraining (ch s c) t w

/-- The ways of a bank are all disabled, and their drains have ended (R257). -/
def bankDark (s : State) (c : Ch) (t : TileId) : Bool :=
  (List.range 16).all fun w => ((wayOff s c t).getLsbD w || (tile s c t).wayFail.getLsbD w) && !wayDraining (ch s c) t w
/-- What follows for a bank's lookups when its ways or drains have changed. -/
def relight (c : Ch) (t : TileId) (s : State) : State := modTile c t (fun x => { x with dark := bankDark s c t }) s

/-- A tile's place in a job that acts in it. -/
def JobTile.start : JobTile := ⟨0, none, 0, none, false⟩
/-- A tile's place in a job that does not act in it. -/
def JobTile.done : JobTile := ⟨0, none, 0, none, true⟩
/-- A gated bank takes no part (R262). -/
def addJob (c : Ch) (kind : JobKind) (seq : Nat) (ctx : Ctx) (part : Nat → Bool) (s : State) : State :=
  modCh c (fun k => { k with
    nextJob := k.nextJob + 1
    jobs := k.jobs ++ [⟨k.nextJob, k.nextRid, kind, seq, ctx,
      Vector.ofFn fun t => if part t.val then JobTile.start else JobTile.done, 0, 0⟩] }) s
/-- Fills in flight for lines that satisfy a test will not be installed (R250). -/
def spoilFills (p : Nat → Miss → Bool) (k : Channel) : Channel :=
  { k with tiles := Vector.ofFn fun t =>
      let x := k.tiles[t]
      { x with miss := x.miss.map fun m => if p t.val m then { m with good := false } else m } }
/-- The drain of a way starts (R257); a gated bank takes no part (R262). -/
def startWayDrain (c : Ch) (t : TileId) (w : Nat) (s : State) : State :=
  let s := modCh c (spoilFills fun u m => u == t.val && m.way == w) s
  if (tile s c t).gated || wayDraining (ch s c) t w then s else addJob c (.wayDrain t w) 0 0 (· == t.val) s

/-- A way's failure count rises (R256); at the limit the way is disabled, recorded and drained. -/
def wayFault (c : Ch) (t : TileId) (w amt : Nat) (planted : Bool) (s : State) : State :=
  let old := Tab.getD (tile s c t).fails w 0
  let n := min 15 (old + amt)
  let s := modTile c t (fun x => { x with
    fails := Tab.put x.fails w n, decayAt := if old = 0 then Tab.put x.decayAt w s.tick else x.decayAt }) s
  if atLeast1 (cfC s c 8 0x40 4 4) ≤ n ∧ (tile s c t).wayFail.getLsbD w = false then
    let s := modTile c t (fun x => { x with wayFail := x.wayFail ||| (1#16 <<< w) }) s
    let s := ev c 0x3B none (occTile t) (record c 4 2 0x0D [BitVec.ofNat 64 (t + w * 16)] planted s)
    relight c t (startWayDrain c t w s)
  else s

-- ## Errors found by a read (Table 12-3)

/-- The ways of a tag block whose stored words differ from those of the other copy as a read corrects them. -/
def tagDiffers (k : Channel) (t set h copy : Nat) : List Nat :=
  ((List.range 8).filter fun w => memWord k (3 + copy) t (set * 2 + h) w != fixedWord k (4 - copy) t (set * 2 + h) w).map (8 * h + ·)
/-- The ways that a tag block's error counts against (R256): the one whose data or row check bit is bad; of a block that cannot be
mended those that the other copy shows to be wrong (DESIGN CHOICE, assumption 68). -/
def tagWays (k : Channel) (t set h copy : Nat) : List Nat :=
  let key := rowKey (3 + copy) t (set * 2 + h)
  match rowOutcome k key with
  | .good => []
  | .mended (some i) _ => [8 * h + i]
  | .mended none _ =>
    ((List.range 8).filter ((Tab.getD k.rows key ⟨0, 0, false⟩).row.getLsbD ·)).map (8 * h + ·)
  | .bad => tagDiffers k t set h copy
/-- The block of one copy is rewritten with its content, as its code or the other copy gives it (R309, R310). -/
def rewriteTag (c : Ch) (t set h copy : Nat) (s : State) : State :=
  let row := set * 2 + h
  let key := rowKey (3 + copy) t row
  match rowOutcome (ch s c) key with
  | .good => s
  | .mended w b => modCh c (mendRow key w b) s
  | .bad => modCh c (takeCopy t row copy) s
/-- What the bad ways of a tag block add to their counts (R256). -/
def tagFaults (c : Ch) (t : TileId) (ways : List Nat) (amt : Nat) (planted : Bool) (s : State) : State :=
  forEach ways (fun w s => wayFault c t w amt planted s) s
/-- One copy of a tag block is read under a grant: a bad bit is mended, and a bad copy is rewritten from the other. -/
def mendTag (c : Ch) (t set h copy : Nat) (s : State) : State :=
  let k := ch s c
  let key := rowKey (3 + copy) t (set * 2 + h)
  match rowOutcome k key with
  | .good => s
  | o =>
    let planted := rowPlanted k key
    let s := rewriteTag c t set h copy (countMend c (tileN t) (3 + copy) (set * 2 + h) 2 planted
      (tagFaults c (tileN t) (tagWays k t set h copy) 1 planted) s)
    if o == .bad then secondFault c planted s else s
/-- One copy of a tag block is read by a lookup: what it finds is counted, and the bank port rewrites it. -/
def noteTag (c : Ch) (t : TileId) (set h copy : Nat) (s : State) : State :=
  let k := ch s c
  let key := rowKey (3 + copy) t (set * 2 + h)
  match rowOutcome k key with
  | .good => s
  | o =>
    let seen := mendPending (tile s c t) (3 + copy) (set * 2 + h)
    let planted := rowPlanted k key
    let s := noteMend c t .lc (3 + copy) (set * 2 + h) 2 planted (tagFaults c t (tagWays k t set h copy) 1 planted) s
    if o == .bad && !seen then secondFault c planted s else s
/-- Both copies of a tag block are bad. -/
def tagsBad (k : Channel) (t set h : Nat) : Bool :=
  rowOutcome k (rowKey 3 t (set * 2 + h)) == .bad && rowOutcome k (rowKey 4 t (set * 2 + h)) == .bad
/-- Two bad copies fence the channel: a record of each, and 4 against each way of the block (DESIGN CHOICE, assumption 68). -/
def tagsDouble (c : Ch) (t set h : Nat) (s : State) : State :=
  let p (copy : Nat) : Bool := rowPlanted (ch s c) (rowKey (3 + copy) t (set * 2 + h))
  let one (copy : Nat) (s : State) : State := uncorrectable c 2 t (set * 2 + h) 2 0 (p copy) s
  fenceAs c .lcTags (p 0 || p 1) (tagFaults c (tileN t) ((List.range 8).map (8 * h + ·)) 4 (p 0 || p 1) (one 1 (one 0 s)))
/-- The tag blocks of a set, the copy that the other is rewritten from first. -/
def eachTag (c : Ch) (t set : Nat) (one : Nat → Nat → State → State) (s : State) : State :=
  forEach [0, 1] (fun h s =>
    if tagsBad (ch s c) t set h then tagsDouble c t set h s
    else if rowOutcome (ch s c) (rowKey 3 t (set * 2 + h)) == .bad then one h 0 (one h 1 s)
    else one h 1 (one h 0 s)) s
/-- A read of the tag blocks of a set. -/
def readTags (c : Ch) (t set : Nat) (s : State) : State := eachTag c t set (mendTag c t set) s
/-- A lookup's read of the tag blocks of a set. -/
def noteTags (c : Ch) (t : TileId) (set : Nat) (s : State) : State := eachTag c t set (noteTag c t set) s
/-- A line's tags are read with no grant, by a lookup or as a flow chooses its source: what they find is counted, two bad copies
fence the channel (R309, R310). A bank in raw access or gated is not read. -/
def findTags (c : Ch) (l : LAddr) (s : State) : State :=
  let t := home l
  if rawHeld s c t .lc || (tile s c t).gated then s else noteTags c t (lcSet l) s

/-- A read of a frame's data block under a grant: mended, or the frame is lost (clean) or poisoned (DIRTY). -/
def readFrame (c : Ch) (t : TileId) (set way : Nat) (s : State) : State :=
  let key := frameKey t set way
  let l := frameLine c t set (tagAt (ch s c) t set way).tag
  match rowOutcome (ch s c) key with
  | .good => s
  | .mended w b =>
    modCh c (mendRow key w b) (countMend c t 2 (set * 16 + way) 1 (rowPlanted (ch s c) key) (wayFault c t way 1 (rowPlanted (ch s c) key)) s)
  | .bad =>
    let e := tagAt (ch s c) t set way
    let planted := rowPlanted (ch s c) key
    let line := subject l 0 0
    if e.dirty then
      let s := modCh c (fun k => putTag t set way { e with poison := true } (zeroRow key k)) s
      wayFault c t way 4 planted (uncorrectable c 1 t (set * 16 + way) 4 line planted s)
    else
      let s := modCh c (fun k => putTag t set way TagE.none (zeroRow key k)) s
      let s := if e.pf then ev c 0x39 (some 2) (occTile t) s else s
      wayFault c t way 4 planted (uncorrectable c 1 t (set * 16 + way) 3 line planted s)

/-- A lookup's read of a frame's data block: a block that it corrects is rewritten by the bank port. -/
def lookFrame (c : Ch) (t : TileId) (set way : Nat) (s : State) : State :=
  let key := frameKey t set way
  match rowOutcome (ch s c) key with
  | .mended _ _ => noteMend c t .lc 2 (set * 16 + way) 1 (rowPlanted (ch s c) key) (wayFault c t way 1 (rowPlanted (ch s c) key)) s
  | _ => readFrame c t set way s

/-- Write a tag entry as a lookup does: a block with an error keeps it until the bank port rewrites it (R309). -/
def lookTag (t set way : Nat) (e : TagE) (k : Channel) : Channel :=
  lookPut 4 t (tagRow set way) (way % 8) e.encode (lookPut 3 t (tagRow set way) (way % 8) e.encode k)

/-- A hit clears PF and counts a used prefetch (R251). The hits that do are those that read the frame or place into it; R251 does
not say whether the hit of an UPGRADE, of an INV_ALL with NT 0, or of a read that a forwarder serves is one, and here it is
none (DESIGN CHOICE, assumption 85). -/
def usePf (put : Nat → Nat → Nat → TagE → Channel → Channel) (c : Ch) (o : Occ) (t : TileId) (set way : Nat) (s : State) : State :=
  let e := tagAt (ch s c) t set way
  if e.pf then ev c 0x39 (some 1) o (modCh c (put t set way { e with pf := false }) s) else s

/-- A read of a line by a request, its frame read by `read`: the line and its poison, or none on a tag miss (a clean frame whose
data is lost reads as a miss, Table 12-3). -/
def lcReadBy (read : TileId → Nat → Nat → State → State) (put : Nat → Nat → Nat → TagE → Channel → Channel) (c : Ch)
    (o : Occ) (l : LAddr) (s : State) : State × Option (Line × Bool) :=
  let t := home l
  let set := lcSet l
  match lcFind (ch s c) l with
  | none => (s, none)
  | some w =>
    let s := usePf put c o t set w (read t set w s)
    match lcFind (ch s c) l with
    | none => (s, none)
    | some w => (s, some (frameData (ch s c) t set w, (tagAt (ch s c) t set w).poison))
/-- A flow's read of a line. -/
def lcRead (c : Ch) (o : Occ) (l : LAddr) (s : State) : State × Option (Line × Bool) := lcReadBy (readFrame c) putTag c o l s
/-- A lookup's read of a line (R106). -/
def lcLook (c : Ch) (o : Occ) (l : LAddr) (s : State) : State × Option (Line × Bool) := lcReadBy (lookFrame c) lookTag c o l s

-- ## Choosing a frame (R247)

/-- One step of a bank's LFSR. -/
def lfsrStep (r : BitVec 16) : BitVec 16 :=
  let f := xor (xor (r.getLsbD 0) (r.getLsbD 2)) (xor (r.getLsbD 3) (r.getLsbD 5))
  (r >>> 1) ||| (if f then 0x8000 else 0)

/-- The frame choose_frame returns, and whether it is a victim (the LFSR then steps). -/
def chooseFrame (s : State) (c : Ch) (t : TileId) (set : Nat) : Option (Nat × Bool) :=
  let k := ch s c
  let ways := (List.range 16).filter fun w => wayEnabled s c t w && !(tagAt k t set w).fill
  match ways.find? fun w => !(tagAt k t set w).valid with
  | some w => some (w, false)
  | none =>
    let x := (tile s c t).lfsr.toNat % 16
    let free := bgFree s c t (.victim, 0)
    (((List.range 16).map fun j => (x + j) % 16).find? fun w =>
      let e := tagAt k t set w
      ways.contains w && !lineOpen s c (frameLine c t set e.tag) && (!e.dirty || free)).map fun w => (w, true)

/-- The victim of an allocation leaves its frame: a clean line is dropped, a DIRTY line is written back by a background
entry (R248). -/
def dropVictim (c : Ch) (t : TileId) (set way : Nat) (s : State) : State :=
  let e := tagAt (ch s c) t set way
  let l := frameLine c t set e.tag
  let s := modTile c t (fun x => { x with lfsr := lfsrStep x.lfsr }) s
  let s := discardPlans c (·.laddr == l) s
  let s := if e.pf then ev c 0x39 (some 2) (occTile t) s else s
  if e.dirty then
    let s := readFrame c t set way s
    let e := tagAt (ch s c) t set way
    let d := frameData (ch s c) t set way
    match openBackground c l .victim s with
    | (s, none) => s
    | (s, some n) => ev c 0x37 none (occTile t) (sendMemWr c t n l d e.poison 0 s)
  else s

/-- Take a frame for line l: the chosen way, its victim dealt with; a failure is counted (0x36, 1). -/
def takeFrame (c : Ch) (o : Occ) (l : LAddr) (s : State) : State × Option Nat :=
  let t := home l
  let set := lcSet l
  match chooseFrame s c t set with
  | none => (ev c 0x36 (some 1) o s, none)
  | some (w, victim) =>
    (ev c 0x36 (some 0) o (if victim then dropVictim c t set w s else s), some w)

-- ## Placement (R245, Table 9-2)

/-- Placements of the line are made as write-back: WB policy, line cache ON, bank in service, no operation on the line. -/
def placesWb (s : State) (c : Ch) (l : LAddr) : Bool :=
  wbPolicy s c l && (ch s c).lc == .on && !lcBlind (ch s c) (tileOf l) (lcSet l) && !covered (ch s c) l

/-- Place a full line (R245): the state, and whether a MEM_WR of the line is called for. -/
def placeFull (c : Ch) (o : Occ) (l : LAddr) (d : Line) (poison : Bool) (s : State) : State × Bool :=
  let t := home l
  let set := lcSet l
  let s := readTags c t set (modCh c (spoilFills fun _ m => m.laddr == l) s)
  let wb := placesWb s c l
  match lcFind (ch s c) l with
  | some w =>
    let s := usePf putTag c o t set w s
    (modCh c (fun k => putTag t set w ⟨lcTag l, true, wb, poison, false, false⟩ (putFrame t set w d k)) s, !wb)
  | none =>
    if wb then
      match takeFrame c o l s with
      | (s, none) => (s, true)
      | (s, some w) =>
        let s := modCh c (fun k => putTag t set w ⟨lcTag l, true, true, poison, false, false⟩ (putFrame t set w d k)) s
        (discardPlans c (·.laddr == l) s, false)
    else (s, true)

/-- Place a line for entry n: a MEM_WR it calls for is the entry's (R246). -/
def placeFor1 (c : Ch) (o : Occ) (t : TileId) (n : Nat) (l : LAddr) (d : Line) (poison : Bool) (inst : InstId) (s : State) : State :=
  match placeFull c o l d poison s with
  | (s, true) => sendMemWr c t n l d poison inst s
  | (s, false) => s

/-- The data of a write that never arrived (R88): MEM_WR of a poisoned line; a VALID frame takes it and is left clean. -/
def placeLost (c : Ch) (t : TileId) (n : Nat) (l : LAddr) (inst : InstId) (s : State) : State :=
  let s := readTags c t (lcSet l) (modCh c (spoilFills fun _ m => m.laddr == l) s)
  let s := match lcFind (ch s c) l with
    | some w => modCh c (fun k =>
        putTag t (lcSet l) w ⟨lcTag l, true, false, true, false, false⟩ (putFrame t (lcSet l) w 0 k)) s
    | none => s
  sendMemWr c t n l 0 true inst s

-- ## Fills (R249, R250)

/-- A frame reserved for a fill takes FILL, and the miss slot is taken; skips are counted (0x36, 1 and 2). -/
def reserveFill (c : Ch) (o : Occ) (l : LAddr) (pf : Bool) (tag : Tag) (s : State) : State :=
  let t := home l
  let set := lcSet l
  if (tile s c t).miss.isSome then ev c 0x36 (some 2) o s
  else
    match takeFrame c o l (readTags c t set s) with
    | (s, none) => s
    | (s, some w) =>
      let s := modCh c (putTag t set w ⟨lcTag l, false, false, false, false, true⟩) s
      modTile c t (fun x => { x with miss := some ⟨l, w, pf, true, tag⟩ }) s

/-- The packet a miss slot waits for has arrived (R250): install it clean, or drop it; the slot frees. -/
def fillArrives (c : Ch) (o : Occ) (t : TileId) (tag : Tag) (d : Line) (poison : Bool) (s : State) : State :=
  match (tile s c t).miss with
  | none => s
  | some m =>
    if m.tag != tag then s
    else
      let set := lcSet m.laddr
      let s := readTags c t set s
      let ok := m.good && !poison && (ch s c).lc == .on && !lcBlind (ch s c) t set && !covered (ch s c) m.laddr &&
        wayEnabled s c t m.way && (tagAt (ch s c) t set m.way).fill
      let s := modTile c t (fun x => { x with miss := none }) s
      if ok then
        let s := modCh c (fun k =>
          putTag t set m.way ⟨lcTag m.laddr, true, false, false, m.prefetch, false⟩ (putFrame t set m.way d k)) s
        discardPlans c (·.laddr == m.laddr) (ev c 0x38 (some 0) o s)
      else
        let s := if (tagAt (ch s c) t set m.way).fill then modCh c (putTag t set m.way TagE.none) s else s
        ev c 0x38 (some 1) o s

/-- A miss slot frees without a packet (R281): the fill is dropped. -/
def fillLost (c : Ch) (o : Occ) (t : TileId) (tag : Tag) (s : State) : State := fillArrives c o t tag 0 true s

-- ## Landing places and non-tracker slots (R30, R81, R467)

/-- MRS landing places in use, of 1,536 (R467). -/
def mrsUsed (k : Channel) : Nat :=
  k.mrsHeld.length + k.tiles.toList.foldl (fun n t =>
    n + t.slots.length + (t.ents.filter fun x => x.2.mem.isSome && x.2.memAns.isNone).length) 0
/-- An MRS landing place is free. -/
def mrsFree (k : Channel) : Bool := decide (mrsUsed k < 1536)

/-- The next free non-tracker slot of a tile (R81): neither in use, nor held after a timeout (R282). -/
def freeSlot (k : Channel) (t : TileId) : Option Nat :=
  let x := k.tiles[t]
  ((List.range 96).map fun j => 160 + (x.lastSlot - 160 + 1 + j) % 96).find? fun n => (Tab.get? x.slots n).isNone &&
    !k.mrsHeld.any fun h => tagTile h.1 == t.val && tagEntry h.1 == n
/-- Take a slot: its generation advances (R81). -/
def takeSlot (c : Ch) (t : TileId) (n : Nat) (v : NSlot) (s : State) : State :=
  modTile c t (fun x => { x with
    slots := Tab.put x.slots n v, lastSlot := n, gens := Tab.put x.gens n (genOf x n + 1) }) s

/-- A MEM_RD of a non-tracker slot, handed to the memory port for a due edge. -/
def slotRead (c : Ch) (t : TileId) (n : Nat) (v : NSlot) (due lane : Nat) (s : State) : State :=
  let s := takeSlot c t n v s
  modCh c (fun k => push .mrq (mkPkt (mkHdr 0x38 0 (homeTagNow k t n) v.laddr v.inst 0) due lane none) k) s

/-- A missed read of line l looks the line after it up for a prefetch (R251). -/
def prefetchOn (s : State) (c : Ch) (l : LAddr) : Bool :=
  cfC s c 8 0x40 1 1 == 1 && (ch s c).lc == .on && decide (lineInRegion l ≠ 63) && wbPolicy s c l && wbPolicy s c (l + 1)
/-- A prefetch of the line after l may be made (R251). -/
def mayPrefetch (s : State) (c : Ch) (l : LAddr) : Bool :=
  let k := ch s c
  let m := l + 1
  prefetchOn s c l && (lcFind k m).isNone && !lcBlind k (tileOf m) (lcSet m) && !lineOpen s c m && !covered k m &&
    !k.pgRet.contains (regionOf m) && (tile s c (home m)).miss.isNone && mrsFree k && (freeSlot (ch s c) (home m)).isSome

/-- The prefetch of R251: MEM_RD by a non-tracker slot, a frame reserved with FILL. One whose frame cannot be reserved is
not made. It serves no request, and its INST is 0 (R70 gives it none; DESIGN CHOICE, assumption 87). -/
def prefetch (c : Ch) (l : LAddr) (due : Nat) (s : State) : State :=
  let m := l + 1
  let t := home m
  let s := findTags c m s
  match freeSlot (ch s c) t with
  | none => s
  | some n =>
    if mayPrefetch s c l then
      let tag := homeTag t n (genOf (tile s c t) n + 1)
      let s := reserveFill c (occTile t) m true tag s
      if (tile s c t).miss.isSome then
        ev c 0x39 (some 0) (occTile t) (slotRead c t n ⟨m, true, 0, 0, 0, 0, 0, s.tick, false⟩ due 2 s)
      else s
    else s

end Sys2Proof.Machine
end

