-- ==== Sys2Proof/Machine/Plan.lean ====
section
/-! DEFINITION. What a request does to a line, worked out from the directory state found (06): the snoop set (R156, Table 6-4),
the source (R165), the grant and the directory after the flow (Table 6-4, R164, R167, R169), the answers Table 6-3 allows, and
the predictions of run-ahead plans (Table 7-1). -/

namespace Sys2Proof.Machine

/-- The locale of an agent (Table 6-9). -/
def localeOf (s : State) (c : Ch) (a : AgentId) : Nat := cfC s c 3 (0x50 + 8 * (a.toNat / 16)) (4 * (a.toNat % 16)) 4
/-- The weight of a locale (Table 6-8). -/
def weightOf (s : State) (c : Ch) (l : Nat) : Nat := cfC s c 3 0x48 (4 * l) 4
/-- The cost of a forward (Table 6-10). -/
def fwdCost (s : State) (c : Ch) (f r : AgentId) : Nat :=
  let lf := localeOf s c f
  let lr := localeOf s c r
  cfC s c 3 (0xD0 + 8 * (2 * lf + lr / 8)) (8 * (lr % 8)) 8
/-- MEM_COST. -/
def memCost (s : State) (c : Ch) : Nat := cfC s c 3 0x40 0 8
/-- LC_COST. -/
def lcCost (s : State) (c : Ch) : Nat := cfC s c 3 0x40 8 8
/-- FWD_POLICY as applied (Table 6-5). -/
def fwdPolicy (s : State) (c : Ch) : Nat := min 2 (cfC s c 3 0x40 16 2)
/-- DIRTY_XFER. -/
def dirtyXfer (s : State) (c : Ch) : Bool := cfC s c 3 0x40 18 1 == 1

/-- The forwarder a flow may use (R165), a ring agent (R75); the requester is none for a pool access. -/
def usableFwd (s : State) (c : Ch) (d : Dir) (a : Option AgentId) : Option AgentId :=
  match d.fwd with
  | none => none
  | some f => if some f != a && fwdPolicy s c != 0 && isRing (ch s c) f && !agentDead (ch s c) f then some f else none

/-- The line cache is no dearer than memory (R165). -/
def lcLow (s : State) (c : Ch) : Bool := decide (lcCost s c ≤ memCost s c)
/-- The line cache is taken before memory: it is no dearer, or its frame is DIRTY and memory must not be read (R165, R166,
R252). -/
def lcBefore (low : Bool) (hit : Option Bool) : Bool :=
  match hit with
  | some dirty => dirty || low
  | none => false

/-- plan_source (R165): ties go to the line cache, then the forwarder, then memory. Memory is no candidate while a DIRTY frame
holds the line (R252). -/
def planSource (s : State) (c : Ch) (op : ReqOp) (dd : Bool) (hit : Option Bool) (d : Dir) (a : Option AgentId) : Source :=
  if !op.isRead then (if hit.isSome then .lineCache else .memory)
  else if dd then .memoryDd
  else
    match usableFwd s c d a with
    | some f =>
      let fc := fwdCost s c f (a.getD Config.poolAgent)
      if lcBefore (lcLow s c) hit && lcCost s c ≤ fc then .lineCache
      else if fc ≤ memCost s c || hit == some true then .forwarder
      else .memory
    | none => if lcBefore (lcLow s c) hit then .lineCache else .memory

/-- The agents a flow may snoop of a recorded set (R156): the caching agents that the agent table lists (R452). -/
def snoopable (k : Channel) (d : Dir) : List AgentId := d.agents.filter (caches k)

/-- F would be granted to the requester (R167, Table 6-5), given that the old forwarder supplied the data or not. -/
def grantsF (s : State) (c : Ch) (fwd : Option AgentId) (supplied : Option AgentId) (a : AgentId) : Bool :=
  isRing (ch s c) a &&
    match fwdPolicy s c, fwd, supplied with
    | 0, _, _ => false
    | _, none, _ => true
    | 1, some _, some _ => true
    | _, some _, some f => decide (weightOf s c (localeOf s c a) < weightOf s c (localeOf s c f))
    | _, some _, none => false

/-- KEEP as applied to a writer: non-caching agents keep nothing (R169), and a dead requester records nothing (R341). -/
def keepFor (k : Channel) (sub : BitVec 7) (a : AgentId) : Nat :=
  if caches k a && !agentDead k a then keepOf sub else 0

/-- The line is demoted before the snoops (R137, R138, Table 6-4): another agent than OWNER is to be recorded. -/
def demotes (k : Channel) (op : ReqOp) (sub : BitVec 7) (d : Dir) (a : AgentId) : Bool :=
  match d with
  | .region o => o != a && (match op with
    | .rdShd | .rdAny => true
    | .upgrade => !wantE sub
    | .wrFull | .wrPtl => keepFor k sub a == 1 || keepFor k sub a == 2
    | _ => false)
  | _ => false

/-- The terms a flow of requester a starts under, given the forwarder found. -/
def termsOf (s : State) (c : Ch) (fwd : Option AgentId) (a : AgentId) : Terms :=
  ⟨lcLow s c, grantsF s c none none a, grantsF s c fwd fwd a, dirtyXfer s c⟩
/-- F is granted at the end of a flow (R167): `fwd` is the forwarder then recorded, `supplied` says that it sent the data. -/
def Terms.grantsF (x : Terms) (fwd : Option AgentId) (supplied : Bool) : Bool :=
  if fwd.isNone then x.fAlone else supplied && x.fMoved

/-- The snoop set of Table 6-4, ascending by agent. -/
def snoopSet (s : State) (c : Ch) (op : ReqOp) (sub : BitVec 7) (a : Option AgentId) (d : Dir) (src : Source) :
    List (AgentId × SnpOp) :=
  let p := (snoopable (ch s c) d).filter (some · != a)
  let inv := p.map fun b => (b, SnpOp.inv)
  let owner (o : SnpOp) : List (AgentId × SnpOp) := match d.owner with
    | some b => if some b == a || !caches (ch s c) b then [] else [(b, o)]
    | none => []
  let fwd (o : SnpOp) : List (AgentId × SnpOp) := match d.fwd with
    | some f => if src == .forwarder then [(f, o)] else []
    | none => []
  match op with
  | .rdShd | .rdAny =>
    (match d with
    | .s _ f => fwd (.fwd (!grantsF s c f f (a.getD Config.poolAgent)))
    | _ => owner .data)
  | .rdOwn =>
    (match d with
    | .s _ f => p.map fun b => if src == .forwarder && f == some b then (b, .fwdInv) else (b, .inv)
    | _ => owner .inv)
  | .rdCur => (match d with
    | .s _ _ => fwd (.fwd true)
    | _ => owner .cur)
  | .upgrade => if wantE sub then inv else owner .data
  | .invAll | .wrFull | .wrPtl => inv
  | .atomic => (snoopable (ch s c) d).map fun b => (b, SnpOp.inv)
  | .rdSpec | .evict | .biConflict => []

/-- A fresh snoop of a flow (R156). -/
def newSnp (l : LAddr) (d : Dir) (x : AgentId × SnpOp) : Snp :=
  ⟨x.1, l, x.2, 0, false, false, 0, none, false, none, d.owner == some x.1, false, false⟩

/-- The directory after a write and its grant (R169, Table 4-2). -/
def afterWrite (k : Channel) (sub : BitVec 7) (a : AgentId) (d : Dir) : Dir × BitVec 3 :=
  let own := d == .region a
  match keepFor k sub a with
  | 0 => (.i, grantI)
  | 1 => (if own then d else .s (.ptrs [a]) none, grantS)
  | 2 => (if own then d else .x a, grantE)
  | _ =>
    if own then (d, grantE)
    else
      let g := d.priorGrant a
      (if g = grantS then .s (.ptrs [a]) none else if g = grantE then .x a else .i, g)

/-- How an agent answered, over the repeats of its snoop. -/
def ansOf (l : List Snp) (a : AgentId) : Option Ans := (l.find? fun (p : Snp) => p.agent == a).bind (·.ans)
/-- The agent answered that it holds no copy (RSP_I, RSP_I_D). -/
def gone (l : List Snp) (a : AgentId) : Bool :=
  match ansOf l a with
  | some .i => true
  | some .iD => true
  | _ => false

/-- The state found without the agents that answered that they hold no copy (R132, R133, R134). -/
def afterAnswers (d : Dir) (l : List Snp) : Dir := l.foldl (fun d p => if gone l p.agent then d.remove p.agent else d) d

/-- Add a requester to the sharers of a state. -/
def addSharer (d : Dir) (a : AgentId) (mw : Bool) (f : Option AgentId) : Dir :=
  match d with
  | .s sh fwd => .s (sh.add a mw) (if f.isSome then f else fwd)
  | .x o => if o == a then .s (.ptrs [a]) f else .s (.ptrs [o, a]) f
  | _ => .s (.ptrs [a]) f

/-- Line l is found in I, in a region whose stratus entry the requester owns: to record it alone sets the line's MASK bit (R135,
Table 4-2). -/
def growsFor (k : Channel) (l : LAddr) (d : Dir) (a : AgentId) : Bool :=
  let lk := lookup k l
  d == .i && lk.sway.isSome && lk.owner == a
/-- Under growth the line becomes region-exclusive, which has no forwarder: F is not granted (R134, R167). -/
def grown (own : Bool) (a : AgentId) (r : BitVec 3 × Dir) : BitVec 3 × Dir :=
  if own && r.2.agents == [a] then (if r.1 == grantF then grantS else r.1, .region a) else r

/-- The grant and the directory after a flow (Table 6-4), but for growth. `d` is the state found (after any demotion), `l` the
answered snoops, `x` the terms the flow started under, `xfer` that a dirty transfer applies (R164). -/
def outcomeOf (k : Channel) (x : Terms) (op : ReqOp) (sub : BitVec 7) (a : AgentId) (d : Dir) (l : List Snp) (mw xfer : Bool) :
    BitVec 3 × Dir :=
  let live := !agentDead k a
  let base := afterAnswers d l
  let rec1 (after : Dir) : Dir := if live then after else base
  let supplied : Bool := d.fwd.any fun f => ansOf l f == some .sD || ansOf l f == some .iD
  let shared : BitVec 3 × Dir :=
    let f := x.grantsF base.fwd supplied
    (if f then grantF else grantS, rec1 (addSharer base a mw (if f then some a else none)))
  let alone : BitVec 3 × Dir :=
    let f := x.fAlone
    (if f then grantF else grantS, if live then .s (.ptrs [a]) (if f then some a else none) else d)
  match op with
  | .rdShd =>
    (match d with
    | .i => alone
    | .x o => if o == a then alone else shared
    | .region _ => (grantS, d)
    | .s _ _ => shared)
  | .rdAny =>
    (match d with
    | .i => (grantE, rec1 (.x a))
    | .x o => if o == a then (grantE, d) else if gone l o then (grantE, rec1 (.x a)) else shared
    | .region _ => (grantE, d)
    | .s _ _ => shared)
  | .rdOwn | .upgrade =>
    if op == .upgrade && !wantE sub then
      (match d with
      | .x o => if o == a then (grantE, d) else (grantS, rec1 (addSharer base a mw none))
      | .region _ => (grantE, d)
      | _ => (grantS, rec1 (addSharer base a mw none)))
    else if d == .x a || d == .region a then (grantE, d)
    else (if xfer then grantM else grantE, if live then .x a else .i)
  | .rdCur => (grantI, base)
  | .invAll | .atomic => (grantI, .i)
  | .wrFull | .wrPtl => let r := afterWrite k sub a d; (r.2, r.1)
  | .evict => (grantI, d.remove a)
  | .rdSpec | .biConflict => (grantI, d)

/-- The grant and the directory after a flow (Table 6-4); `own` says that growth applies. A dead requester is not recorded, as
if KEEP were I: where the directory found it already, it goes (R341; DEDUCED, assumption 93). -/
def outcome (k : Channel) (x : Terms) (own : Bool) (op : ReqOp) (sub : BitVec 7) (a : AgentId) (d : Dir) (l : List Snp)
    (mw xfer : Bool) : BitVec 3 × Dir :=
  let r := grown own a (outcomeOf k x op sub a d l mw xfer)
  if agentDead k a then (r.1, r.2.remove a) else r

-- ## Answers (Table 6-3)

/-- Table 6-3 allows the answer to the snoop from an agent of this kind. Eviction and recovery snoops are judged as R145
states: SDATA with RSP_S_D is placed too. -/
def allowed (op : SnpOp) (ring storm : Bool) (x : Ans) : Bool :=
  match op, x with
  | .inv, .i => true
  | .inv, .iD => ring || storm
  | .inv, .sD => storm
  | .data, .s => true
  | .data, .i => true
  | .data, .sD => ring
  | .cur, .i => true
  | .cur, .s => true
  | .cur, .e => true
  | .fwd _, .i => true
  | .fwd _, .sD => true
  | .fwdInv, .i => true
  | .fwdInv, .iD => true
  | _, _ => false

/-- The predicted answer (Table 7-1). -/
def predicted (op : SnpOp) (d : Dir) : Ans :=
  match op with
  | .inv => .i
  | .data => .s
  | .cur => if d.owner.isSome then .e else .s
  | .fwd _ => .sD
  | .fwdInv => .iD

/-- The predicted directory after a member that finds state d of line m (R187). -/
def predictedAfter (s : State) (c : Ch) (m : LAddr) (op : ReqOp) (sub : BitVec 7) (who : Option AgentId) (d : Dir) (src : Source)
    (mw : Bool) : Dir :=
  let a := who.getD Config.poolAgent
  let x := termsOf s c d.fwd a
  let own := growsFor (ch s c) m d a
  let d := if demotes (ch s c) op sub d a then (match d with | .region o => Dir.x o | d => d) else d
  let l := (snoopSet s c op sub who d src).map fun x =>
    { newSnp 0 d x with ans := some (predicted x.2 d) }
  (outcome (ch s c) x own op sub a d l mw false).2

end Sys2Proof.Machine
end

