-- ==== Sys2Proof/Machine/Start.lean ====
section
/-! DEFINITION. The start of a flow (R154, R156, R172, R179, R185, R189, R341): the state found, the plan, the snoop set with the
settlements of dead agents, the writes the flow absorbs, and the data it receives. -/

namespace Sys2Proof.Machine

/-- Change what a line's WDATA is for. -/
def useW (rid : Nat) (use : WUse) (k : Channel) : Channel :=
  { k with wexp := k.wexp.map fun w => if w.rid = rid then { w with use := use } else w }

/-- The landing place of a request is free again. -/
def landed (rid : Nat) (k : Channel) : Channel :=
  modReq rid (fun q => { q with awaitW := false }) { k with wexp := k.wexp.filter fun w => w.rid != rid }

/-- A line's WDATA is dropped (R89, R297): it is placed nowhere. -/
def dropped (rid : Nat) (k : Channel) : Channel := modReq rid (fun q => { q with awaitP := false }) (landed rid k)

/-- The flow of a request is aborted (R236): its own WDATA, where it has not come, is dropped as it comes, and a record tells
where it does not (R89). -/
def abandon (c : Ch) (t : TileId) (n : Nat) (e : Entry) (s : State) : State :=
  modCh c (fun k => if e.operand.isNone then useW e.rid .drop k else k) (modEntry c t n (fun e => { e with aborted := true }) s)

/-- GRANT of an absorbed write's CMP (R154). -/
def absorbGrant (sub : BitVec 7) (found : Dir) (a : AgentId) : BitVec 3 :=
  match keepOf sub with
  | 0 => grantI
  | 1 => grantS
  | 2 => grantE
  | _ => found.priorGrant a

/-- A snoop of entry n leaves: from the clear-sky path at a due edge, or by ring (R78, R157, R269). -/
def snpPkt (k : Channel) (t : TileId) (n : Nat) (p : Snp) (inst : InstId) (kind : SnpKind) (due lane : Nat) : EgrPkt :=
  ⟨mkHdr p.op.code p.agent (homeTagNow k t n) p.laddr inst p.op.sub, 0, 0, due, lane, kind, none, some (t.val, n)⟩
/-- Mark a snoop of an entry as sent (R145, R181, R281). -/
def markSent (a : AgentId) (l : LAddr) (tick : Nat) (e : Entry) : Entry :=
  { e with snoops := e.snoops.map fun p =>
      if p.agent == a && p.laddr == l then { p with out := true, crossed := false, tries := p.tries + 1, sentAt := tick }
      else p }

/-- A poisoned settlement's data is received, placed and sent like any other (R156, R341); a WR_FULL drops it (R170). -/
def settleData (l : LAddr) (e : Entry) : Entry :=
  if e.op == some .wrFull then e
  else { e with
    rdata := if e.laddr == l then some (0, true) else e.rdata, rsrc := 2, dataRcvd := true
    toPlace := e.toPlace ++ [(l, 0, true, e.inst)] }

/-- The plans of the members after entry n in its line's chain are discarded (R188). -/
def discardAfter (c : Ch) (t : TileId) (n : Nat) (s : State) : State :=
  match entry? (tile s c t) n with
  | none => s
  | some e => discardPlans c (fun x => x.inChain && x.laddr == e.laddr && decide (e.rid < x.rid)) s
/-- An answer of a request's flow that is not the one predicted discards the plans after it (R188, Table 7-1). -/
def offPlan (c : Ch) (t : TileId) (n : Nat) (p : Snp) (x : Ans) (s : State) : State :=
  match entry? (tile s c t) n with
  | none => s
  | some e => if e.isRequest && predicted p.op e.found != x then discardAfter c t n s else s

/-- A poisoned-range record (Table 15-2, TYPE 0x06). -/
def rangeRecord (c : Ch) (a : AgentId) (r : LAddr × Nat) (s : State) : State :=
  record c 2 2 0x06 [subject r.1 a 0, BitVec.ofNat 64 r.2] false s
/-- A line poisoned for a dead agent in tile t (R343): it joins the open range of the agent's walk there, or begins one; with
no walk of the agent running it is a range of its own. -/
def notePoison (c : Ch) (t : TileId) (a : AgentId) (l : LAddr) (s : State) : State :=
  match (ch s c).walks.find? fun (w : Walk) => w.agent == a with
  | none => rangeRecord c a (l, 1) s
  | some w =>
    let put (r : LAddr × Nat) (s : State) : State := modCh c (fun k => { k with walks := k.walks.map fun v =>
      if v.agent == a then { v with lines := v.lines + 1, ranges := Tab.put v.ranges t r } else v }) s
    match Tab.get? w.ranges t with
    | none => put (l, 1) s
    | some (f, n) =>
      if l == f + BitVec.ofNat 46 n && regionOf l == regionOf f then put (f, n + 1) s
      else put (l, 1) (rangeRecord c a (f, n) s)

/-- The dead-agent settlement of a snoop (R341): RSP_I, with poisoned data where the agent was recorded as owner and the flow
has received no write of it. -/
def settleSnp (c : Ch) (t : TileId) (n : Nat) (p : Snp) (s : State) : State :=
  let s := ev c 0x53 none (occEnt (ch s c) (some (t.val, n)) p.laddr) s
  let s := if p.wasOwner && !p.wrote then notePoison c t p.agent p.laddr s else s
  let s := offPlan c t n p (if p.wasOwner && !p.wrote then .iD else .i) s
  modEntry c t n (fun e =>
    let e := { e with snoops := e.snoops.map fun q =>
      if q.agent == p.agent && q.laddr == p.laddr then { q with ans := some .i, out := false, dataDue := false, asDead := true }
      else q }
    if p.wasOwner && !p.wrote then settleData p.laddr e else e) s |> takeBuffer c t n

/-- The members of entry n's set that the agent table records as dead take their settlement (R156, R341). -/
def settleDead (c : Ch) (t : TileId) (n : Nat) (s : State) : State :=
  match entry? (tile s c t) n with
  | none => s
  | some e => forEach (e.snoops.filter fun p => p.ans.isNone && agentDead (ch s c) p.agent) (settleSnp c t n) s

/-- The data of an absorbed write (R154, R171): a full line is received data and is to be placed; a partial one is to be
merged. The packets it causes carry the write's instance (R70). -/
def absorbData (rid : Nat) (l : LAddr) (i : InstId) (full : Bool) (d : Line) (m : Word) (poison : Bool) (e : Entry) : Entry :=
  let e := { e with owes := e.owes ++ [rid] }
  if full then
    { e with
      rdata := if e.laddr == l then some (d, poison) else e.rdata, rsrc := 1, dataRcvd := true
      toPlace := e.toPlace ++ [(l, d, poison, i)] }
  else { e with dataRcvd := true, absPtl := e.absPtl ++ [(l, d, m, poison, i)] }

/-- SDATA is the flow's (R145, R163, R164, R170); a forwarder's does not replace the value of a write the flow has absorbed
(R165). -/
def sdataFor (d : Line) (poison : Bool) (p : Snp) (e : Entry) : Entry :=
  if e.op == some .wrFull then e
  else
    let place := match p.op with | .fwd _ => false | .fwdInv => false | _ => true
    let xfer := e.op == some .rdOwn && e.terms.xfer && p.wasOwner && p.ans == some .iD && p.op == .inv && !p.wrote
    let mine := p.laddr == e.laddr && (place || e.rdata.isNone)
    { e with
      rdata := if mine then some (d, poison) else e.rdata, rsrc := if mine then 2 else e.rsrc
      dataRcvd := true, xfer := e.xfer || xfer
      toPlace := if place && !xfer then e.toPlace ++ [(p.laddr, d, poison, e.inst)] else e.toPlace }
/-- The SDATA of a snoop waits for a write of its agent that the flow has absorbed and not taken yet (R154). -/
def sdataWaits (k : Channel) (t : TileId) (n : Nat) (e : Entry) (p : Snp) : Bool :=
  e.absPtl.any (·.1 == p.laddr) ||
    k.wexp.any fun w => w.use == .absorbed t n && w.agent == p.agent && w.laddr == p.laddr
/-- SDATA that waits for no absorbed write becomes the flow's (R154). -/
def takeSdata (c : Ch) (t : TileId) (n : Nat) (s : State) : State :=
  match entry? (tile s c t) n with
  | none => s
  | some e => takeBuffer c t n (forEach (e.snoops.filter fun p => p.sdata.isSome && !sdataWaits (ch s c) t n e p) (fun p s =>
      modEntry c t n (fun e => let (d, q) := p.sdata.getD (0, true)
        sdataFor d q p { e with snoops := e.snoops.map fun x =>
          if x.agent == p.agent && x.laddr == p.laddr then { x with sdata := none } else x }) s) s)

/-- A protocol-error record (Table 15-2, TYPE 0x02) with its count; port 2 SNI, 3 DIN, 4 MRS. -/
def protocolError (c : Ch) (cause port : Nat) (op : BitVec 6) (l : LAddr) (a : AgentId) (i : InstId) (tag : Tag)
    (o : Occ) (s : State) : State :=
  ev c 0x0E (some cause) o (record c 1 2 0x02 [subject l a i,
    BitVec.ofNat 64 (port + op.toNat * 2 ^ 3 + tag.toNat * 2 ^ 9 + cause * 2 ^ 25)] false s)
/-- The record of a completed write whose data never came (R88): CAUSE 1, with DIN's port and opcode (assumption 111). -/
def dataRecord (c : Ch) (l : LAddr) (a : AgentId) (i : InstId) (tag : Tag) (s : State) : State :=
  protocolError c 1 3 0x30 l a i tag (occOf l a i) s
/-- An absorbed write whose data has not come: the poisoned line goes to memory (R88), and the flow has it as received data. -/
def absorbLost (c : Ch) (t : TileId) (n rid : Nat) (l : LAddr) (a : AgentId) (i : InstId) (tag : Tag) (s : State) : State :=
  dataRecord c l a i tag (modEntry c t n (fun e => { e with
    rdata := if e.laddr == l then some (0, true) else e.rdata, rsrc := 1, dataRcvd := true
    owes := e.owes ++ [rid] }) (placeLost c t n l i s))

/-- Write `rid` of agent a for line l is absorbed by entry n: the agent is known to have written (R341), the write's place is
before the flow (R182), and the plans after the flow are discarded (R188). -/
def noteAbsorbed (c : Ch) (t : TileId) (n rid : Nat) (a : AgentId) (l : LAddr) (s : State) : State :=
  let s := modCh c (modReq rid fun q => { q with place := 2 * ((entry? (tile s c t) n).elim 0 (·.rid)) }) s
  discardAfter c t n (modEntry c t n (fun e => { e with
    snoops := e.snoops.map fun p => if p.agent == a && p.laddr == l then { p with wrote := true } else p }) s)

/-- Entry n holds an unanswered snoop to agent a for line l (R185). -/
def unanswered (e : Entry) (a : AgentId) (l : LAddr) : Bool :=
  e.snoops.any fun p => p.agent == a && p.laddr == l && p.ans.isNone

/-- A write that waits in the chain is absorbed (R185): CMP, and its data goes to the flow; its entry stays until the data is
placed. -/
def absorbMember (c : Ch) (t : TileId) (n : Nat) (d : Dir) (m : Nat) (x : Entry) (s : State) : State :=
  let h := mkHdr Verdict.cmp.code x.agent x.tag x.laddr x.inst (rdataSub (absorbGrant x.subtype d x.agent) 0)
  let s := ev c 0x20 none (occOf x.laddr x.agent x.inst) s
  let s := modCh c (fun k => sendOut t .vrs (mkPkt h 0 2 (some x.rid)) (useW x.rid (.absorbed t n) k)) s
  let s := modEntry c t m (fun y => { y with verdict := true, absorbedBy := some n, waiting := true, readyAt := s.tick }) s
  let s := noteAbsorbed c t n x.rid x.agent x.laddr s
  match x.operand with
  | some (w, k, p) => takeBuffer c t n (modEntry c t n (absorbData x.rid x.laddr x.inst (x.op == some .wrFull) w k p) s)
  | none => if x.opMissing then absorbLost c t n x.rid x.laddr x.agent x.inst x.tag s else s

/-- A write that waits in a handoff buffer behind the flow is absorbed too; it takes no entry. -/
def absorbWaiter (c : Ch) (t : TileId) (n : Nat) (d : Dir) (w : Waiter) (s : State) : State :=
  let s := ev c 0x20 none (occOf w.line w.req.agent w.inst) s
  let data := ((ch s c).wexp.find? fun x => x.rid == w.rid).bind (·.data)
  let s := modCh c (fun k =>
    let k := { k with hoff := k.hoff.filter fun v => v.rid != w.rid }
    match data with
    | some _ => { k with wexp := k.wexp.filter fun x => x.rid != w.rid }
    | none => useW w.rid (.absorbed t n) k) s
  let s := laneTwo c .cmp w.req.agent w.req.tag w.line w.inst (rdataSub (absorbGrant w.req.subtype d w.req.agent) 0) (s.pclk + 1) w.rid s
  let s := noteAbsorbed c t n w.rid w.req.agent w.line s
  match data with
  | some (x, m, p) => takeBuffer c t n (modEntry c t n (absorbData w.rid w.line w.inst (w.op == .wrFull) x m p)
      (modCh c (modReq w.rid fun q => { q with awaitW := false }) s))
  | none => if w.lost then absorbLost c t n w.rid w.line w.req.agent w.inst w.req.tag s else s

/-- The writes already waiting behind entry n from agents of its set are absorbed when its flow starts (R185). -/
def absorbWaiting (c : Ch) (t : TileId) (n : Nat) (d : Dir) (s : State) : State :=
  match entry? (tile s c t) n with
  | none => s
  | some e =>
    let ms := (tile s c t).ents.filter fun x => x.2.inChain && x.1 != n && decide (e.rid < x.2.rid) && !x.2.verdict &&
      (match x.2.op with | some o => o.isWrite | none => false) && !x.2.pool && unanswered e x.2.agent x.2.laddr
    let ws := (ch s c).hoff.filter fun w => w.port.isSome && w.op.isWrite && decide (e.rid < w.rid) && unanswered e w.req.agent w.line
    forEach ws (absorbWaiter c t n d) (forEach ms (fun x s => absorbMember c t n d x.1 x.2 s) s)

/-- The update count of a line's two sets (R224). -/
def setStamp (x : Tile) (l : LAddr) : Nat := Tab.getD x.seqs (cirrusSet l) 0 + Tab.getD x.seqs (stratusSet l) 0

-- ## Run-ahead plans (R187)

/-- RUNAHEAD_EN. -/
def runaheadOn (s : State) (c : Ch) : Bool := cfC s c 5 0x100 0 1 == 1
/-- RUNAHEAD_DEPTH as applied. -/
def runaheadDepth (s : State) (c : Ch) : Nat := min 8 (atLeast1 (cfC s c 5 0x100 4 4))

/-- The state a member that finds d is predicted to leave (R187). -/
def predictFor (s : State) (c : Ch) (e : Entry) (d : Dir) (src : Source) : Dir :=
  match e.op with
  | some op => predictedAfter s c e.laddr op e.subtype e.who d src (mayWide s c e.laddr)
  | none => d
/-- The plan of a waiter that is predicted to find d (R187). -/
def planOf (s : State) (c : Ch) (e : Entry) (d : Dir) : Plan :=
  let hit := lcHit (ch s c) e.laddr
  match e.op with
  | none => ⟨d, hit, .memory, [], 0, d⟩
  | some op =>
    let src := planSource s c op e.ddIssued hit d e.who
    let d' := if demotes (ch s c) op e.subtype d e.agent then (match d with | .region o => Dir.x o | d => d) else d
    let set := snoopSet s c op e.subtype e.who d' src
    let l := set.map fun x => { newSnp e.laddr d' x with ans := some (predicted x.2 d') }
    let r := outcome (ch s c) (termsOf s c d.fwd e.agent) (growsFor (ch s c) e.laddr d e.agent) op e.subtype e.agent d' l (mayWide s c e.laddr) false
    ⟨d, hit, src, snoopSet s c op e.subtype e.who d src, r.1, r.2⟩

/-- Plans for the waiters of a chain in order (R187); a waiter that holds a plan for the same state keeps it. -/
def planChain (c : Ch) (t : TileId) : List (Nat × Entry) → Dir → State → State
  | [], _, s => s
  | (m, x) :: r, d, s =>
    let p := planOf s c x d
    let s := if x.plan == some p then s
      else ev c 0x23 (some 0) (occE t x) (modEntry c t m (fun y => { y with plan := some p }) s)
    planChain c t r p.after s

/-- While the head has an unanswered snoop the tracker plans the first waiters of its chain (R187). -/
def makePlans (c : Ch) (t : TileId) (n : Nat) (s : State) : State :=
  match entry? (tile s c t) n with
  | none => s
  | some e =>
    if !runaheadOn s c || !e.head || !e.inChain || !e.fetched || !e.snoops.any (·.ans.isNone) then s
    else
      let ws := ((chain (tile s c t) e.laddr).filter fun x => x.1 != n && !x.2.head && !x.2.started).take (runaheadDepth s c)
      planChain c t ws (predictFor s c e e.found e.source) s
/-- Plans for the chain of a line that a waiter has joined (R187). -/
def planLine (c : Ch) (l : LAddr) (s : State) : State :=
  match (chain (tile s c (home l)) l).find? fun x => x.2.head with
  | some x => makePlans c (home l) x.1 s
  | none => s

/-- The chains of a tile whose head has an unanswered snoop have their waiters planned again where a change of tags or of registers
has taken the plans (R187, R188). -/
def replan (c : Ch) (t : TileId) (s : State) : State :=
  forEach ((tile s c t).ents.filter fun x => x.2.inChain && x.2.head && x.2.snoops.any (·.ans.isNone)) (fun x s => makePlans c t x.1 s) s

-- ## The start

/-- The flow of entry n starts with directory state d found, from a valid plan or by its own choice of source (R165, R179,
R189): it absorbs the writes that wait behind it before its dead members are settled (R156, R185). -/
def startFlow (c : Ch) (t : TileId) (n : Nat) (d : Dir) (plan : Option Plan) (s : State) : State :=
  match entry? (tile s c t) n with
  | none => s
  | some e =>
    match e.op with
    | none => modEntry c t n (fun e => { e with fetched := true, found := d, stamp := setStamp (tile s c t) e.laddr }) s
    | some op =>
      let s := findTags c e.laddr s
      if (ch s c).cause != .none then s
      else
      let hit := (lcFind (ch s c) e.laddr).isSome
      let atMem := op == .atomic && atomMem s c e.laddr && d == .i && !hit
      let src := match plan with | some p => p.source | none => planSource s c op e.ddIssued (lcHit (ch s c) e.laddr) d e.who
      let set := match plan with | some p => p.snoops | none => snoopSet s c op e.subtype e.who d src
      let snps := set.map (newSnp e.laddr d)
      let s := modEntry c t n (fun e => { e with
        fetched := true, found := d, stamp := setStamp (tile s c t) e.laddr, source := src, snoops := snps
        terms := termsOf s c d.fwd e.agent, demote := demotes (ch s c) op e.subtype d e.agent
        atMemory := atMem, updated := atMem, plan := none }) s
      let s := if op == .atomic then
        ev c 0x1E (some (if atMem then 1 else if atomMem s c e.laddr then 2 else 0)) (occOf e.laddr e.agent e.inst)
          (if atMem then modCh c (spoilFills fun _ m => m.laddr == e.laddr) s else s) else s
      makePlans c t n (settleDead c t n (absorbWaiting c t n d s))

end Sys2Proof.Machine
end

