-- ==== Sys2Proof/Machine/Ingress.lean ====
section
/-! DEFINITION. The ingress and the clear-sky path (04, R29, R37, R38, R177 to R195, R289 to R298, R324): acceptance of a
request, its refusals, the decision of Table 4-2, the speculative read, the hand-on to an engine with its first snoop, retries
and anchors. -/

namespace Sys2Proof.Machine

-- ## Acceptance

/-- One line of an accepted request: its fields, resolved instance, order number, age stamp, and the stretch (0 or 1). -/
structure Acc where
  op : ReqOp
  r : ReqIn
  inst : InstId
  line : LAddr
  rid : Nat
  age : BitVec 32
  x : Nat
  deriving DecidableEq, Repr

/-- The occurrence a line's request gives the counters. -/
def Acc.occ (q : Acc) : Occ := occOf q.line q.r.agent q.inst

/-- A port can take a request on this edge: its ready was high as the edge came (R28), the channel has gone into no reset and no
gating since, and the port has taken none on the edge (R26, R29). Of two requests on one edge IRQ_A's comes first, so IRQ_A
takes none once IRQ_B has (R15), and neither takes one once a pool access has its stamp of the edge (R474; assumption 20). -/
def mayAccept (s : State) (c : Ch) (p : Port) : Bool :=
  let k := ch s c
  running s && (k.pwr == .on || k.pwr == .draining) && !(match p with | .a => k.wasLowA | .b => k.wasLowB) &&
    k.lastPa != s.pclk + 1 && k.lastB != s.pclk + 1 && (p == .b || k.lastA != s.pclk + 1)

/-- Whether the acceptance on this edge is stretched (R38): `str` is the port's stretch, `last` one more than its last
acceptance edge; a decision is seen from edge `decEdge` on. -/
def stretchNow (str : Bool) (last now decEdge : Nat) (decision : Bool) : Bool :=
  let seen := if decEdge ≤ now then decision else !decision
  if str then seen || !decide (max last decEdge < now) else seen

/-- The port's stretch after the acceptance, and the acceptance recorded (R38). -/
def acceptEdge (p : Port) (now : Nat) (k : Channel) : Channel :=
  match p with
  | .a => { k with strA := stretchNow k.strA k.lastA now k.decEdge k.decision, lastA := now + 1 }
  | .b => { k with strB := stretchNow k.strB k.lastB now k.decEdge k.decision, lastB := now + 1 }
/-- The latest acceptance of the port was stretched. -/
def stretched (k : Channel) : Port → Bool | .a => k.strA | .b => k.strB

/-- A sample that waits for a request (R436): one that passes the counter's filters is sampled, and after 64 that do not word 2 is
zero. -/
def paySample (cfg : Word) (o : Occ) (w : Word) (x : Sample) : Sample :=
  if x.subj.isSome then x
  else if passes cfg o then { x with subj := some w }
  else if x.left ≤ 1 then { x with subj := some 0 }
  else { x with left := x.left - 1 }
/-- The samples owed as a request is accepted (R436). -/
def paySamples (c : Ch) (o : Occ) (w : Word) (s : State) : State :=
  modCh c (fun k => { k with owed := { k.owed with
    samples := k.owed.samples.map fun x => paySample (cntCfg s c x.counter) o w x } }) s

/-- The acceptance of a request of n lines: stretch, age stamp (R214), order numbers, count. -/
def acceptCount (c : Ch) (r : ReqIn) (inst : InstId) (n : Nat) (s : State) : State :=
  let o := occOf r.laddr r.agent inst
  let s := modCh c (fun k => { acceptEdge r.port s.pclk k with age := k.age + 1, nextRid := k.nextRid + n }) s
  ev c 0x05 (some (portLane r.port)) o (paySamples c o (subject r.laddr r.agent inst) s)

/-- Open a line (R79): `op` is BI_CONFLICT for a request that the gate does not check. R301 keeps a write in flight until its
data is placed or dropped; the model keeps an ATOMIC and a retried write so too (DESIGN CHOICE, assumption 100). -/
def openReq (c : Ch) (q : Acc) (op : ReqOp) (awaitV awaitW : Bool) (s : State) : State :=
  modCh c (fun k => { k with openReqs := k.openReqs ++
    [⟨q.rid, some q.r.port, op, q.r.agent, q.r.tag, q.line, q.inst, k.epoch, s.pclk, awaitV, false, awaitW, awaitW, false,
      2 * q.rid + 1⟩] }) s

/-- The landing place of a line's WDATA (R29, R87). -/
def expectW (c : Ch) (q : Acc) (use : WUse) (s : State) : State :=
  if q.op.hasData then
    modCh c (fun k => { k with wexp := k.wexp ++
      [⟨q.rid, q.r.port, q.op, q.r.agent, q.r.tag, q.line, q.inst, s.tick, use, false, none, none⟩] }) s
  else s
/-- A clear-sky packet on VRS: due at edge 2, or 3 under the stretch, on the port's lane (R35, R110). -/
def csVerdict (c : Ch) (q : Acc) (v : Verdict) (sub : BitVec 7) (anchor : Bool) (s : State) : State :=
  let h := { mkHdr v.code q.r.agent q.r.tag q.line q.inst sub with anchor := anchor }
  let s := modCh c (push .vrs (mkPkt h (s.pclk + 2 + q.x) (portLane q.r.port) (some q.rid))) s
  if q.x = 0 then s else ev c 0x04 (some (if (ch s c).setByBaro then 0 else 1)) q.occ s

/-- RDATA of the clear-sky path: due at edge 4 or 5 (R110). -/
def csData (c : Ch) (q : Acc) (g : BitVec 3) (src : BitVec 2) (d : Line) (poison : Bool) (s : State) : State :=
  let h := { mkHdr 0x32 q.r.agent q.r.tag q.line q.inst (rdataSub g src) with poison := poison }
  modCh c (fun k => push .dout ⟨h, d, ~~~0, s.pclk + 4 + q.x, portLane q.r.port, .flow, some q.rid, none⟩
    (modReq q.rid (fun o => { o with awaitD := true }) k)) s

-- ## Refusals (R102)

/-- The verdict, event and landing place of one refused line (Table 4-1); RD_SPEC and EVICT are never answered. -/
def refuseLine (c : Ch) (order : Nat) (q : Acc) (s : State) : State :=
  if q.op == .rdSpec || q.op == .evict then s
  else
    let s := expectW c q .drop (openReq c q .biConflict true q.op.hasData s)
    match order with
    | 1 => csVerdict c q .err (endSub errMisroute false) false s
    | 2 => csVerdict c q .err (endSub errProtocol false) false s
    | 3 => csVerdict c q .err (endSub errUnsupported false) false s
    | 4 => csVerdict c q .err (endSub errAgentDead false) false s
    | _ => ev c 0x24 (some 3) q.occ (csVerdict c q .retry (endSub 3 false) false s)

/-- The lines of a request that are not all homed on channel c (R12, R14). -/
def offChannel (c : Ch) (l : LAddr) (n : Nat) : Bool := (linesFrom l n).any fun m => channelOf m != c.val
/-- The lines cross a 4 KiB boundary (R16). -/
def crossesRegion (l : LAddr) (n : Nat) : Bool := decide (64 < lineInRegion l + n)

/-- The first row of Table 4-1 that applies; `op` is none for an invalid opcode. -/
def refusal (s : State) (c : Ch) (op : Option ReqOp) (r : ReqIn) (inst : InstId) : Option Nat :=
  let k := ch s c
  let n := match op with | some o => linesOf o r.subtype | none => 1
  if offChannel c r.laddr n || crossesRegion r.laddr n then some 1
  else match op with
    | none => some 2
    | some o =>
      if !permitted o (agentKind k r.agent) || badSubtype o r.subtype then some 3
      else if agentDead k r.agent then some 4
      else if instState k inst != .active then some 5
      else none

/-- A refusal is counted; a misroute writes its record (R14, R16), with CAUSE 0 where LADDR's own line is another channel's, and
1 for a crossing; a request that is both records 0 (DESIGN CHOICE, assumption 62). -/
def refuseAct (c : Ch) (order : Nat) (code : BitVec 6) (q : Acc) (lines : List Acc) (s : State) : State :=
  let s := ev c 0x07 (some (order - 1)) q.occ s
  let w2 := q.r.tag.toNat + code.toNat * 2 ^ 16 + portLane q.r.port * 2 ^ 22 +
    (!offChannel c q.r.laddr 1).toNat * 2 ^ 23
  let s := if order = 1 then
    record c 0 1 0x01 [subject q.r.laddr q.r.agent q.inst, BitVec.ofNat 64 w2] false s else s
  forEach lines (refuseLine c order) s

-- ## Retries and anchors (R190 to R195)

/-- The binding of agent a for line l (R194). -/
def boundTo (k : Channel) (a : AgentId) (l : LAddr) : Bool :=
  match Tab.get? k.anchors a.toNat with
  | some x => x.line == l && x.bound.isSome
  | none => false

/-- What a RETRY REASON 0, 1 or 2 does to the agent's anchor (R192): ANCHOR, and the state. A draining channel's RETRY does
nothing to it (R420). -/
def retryAnchor (c : Ch) (a : AgentId) (l : LAddr) (i : InstId) (s : State) : State × Bool :=
  let t := home l
  match Tab.get? (ch s c).anchors a.toNat with
  | some _ => (s, false)
  | none =>
    if drainHold (ch s c) then (s, false)
    else if reserveFree s c t then
      (modCh c (fun k => { k with anchors := Tab.put k.anchors a.toNat ⟨l, i, t.val, some s.tick⟩ }) s, true)
    else
      let s := modCh c (fun k => { k with anchors := Tab.put k.anchors a.toNat ⟨l, i, t.val, none⟩ }) s
      (modTile c t (fun x => { x with waits := x.waits ++ [a] }) s, false)

/-- A reserve entry that came free is bound at once to the head of the tile's wait list (R193). -/
def bindNext (c : Ch) (t : TileId) (s : State) : State :=
  match (tile s c t).waits with
  | [] => s
  | a :: r =>
    if reserveFree s c t then
      let s := modTile c t (fun x => { x with waits := r }) s
      modCh c (fun k => match Tab.get? k.anchors a.toNat with
        | some x => { k with anchors := Tab.put k.anchors a.toNat { x with bound := some s.tick } }
        | none => k) s
    else s

/-- An anchored request that takes no entry uses its binding (R194): it is counted, the anchor is FREE, and the reserve entry
returns. -/
def useBinding (c : Ch) (a : AgentId) (l : LAddr) (i : InstId) (s : State) : State :=
  if boundTo (ch s c) a l then
    bindNext c (home l) (modCh c (fun k => { k with anchors := Tab.drop k.anchors a.toNat }) (ev c 0x25 none (occOf l a i) s))
  else s

/-- The RETRY of a request on the clear-sky path (Table 7-2). An EVICT is never answered (R102): it is dropped. -/
def csRetry (c : Ch) (q : Acc) (reason : Nat) (ddx : Bool) (s : State) : State :=
  if q.op == .evict then s
  else
    let (s, anchor) := retryAnchor c q.r.agent q.line q.inst s
    let s := modCh c (useW q.rid .drop) s
    let s := csVerdict c q .retry (endSub reason ddx) anchor s
    let s := retryEvent c reason anchor q.occ s
    if ddx then ev c 0x0B (some 2) q.occ s else s

-- ## Absorbed writes (R154, R185)

/-- The entry whose set holds an unanswered snoop to agent a for line l (R181, R185); an aborted flow sends no more of them
(R236). -/
def absorber (k : Channel) (a : AgentId) (l : LAddr) : Option (Nat × Entry) :=
  (k.tiles[home l]).ents.find? fun (x : Nat × Entry) => !x.2.ended &&
    x.2.snoops.any fun p => p.agent == a && p.laddr == l && p.ans.isNone && (p.out || !x.2.aborted)

/-- Absorption at acceptance (R185). -/
def absorbNow (c : Ch) (q : Acc) (n : Nat) (e : Entry) (s : State) : State :=
  let s := useBinding c q.r.agent q.line q.inst s
  let s := modCh c (useW q.rid (.absorbed (tileOf q.line) n)) s
  let s := makePlans c (home q.line) n (noteAbsorbed c (home q.line) n q.rid q.r.agent q.line s)
  ev c 0x20 none q.occ
    (laneTwo c .cmp q.r.agent q.r.tag q.line q.inst (rdataSub (absorbGrant q.r.subtype e.found q.r.agent) 0)
      (s.pclk + 2 + q.x) q.rid s)

-- ## BI_CONFLICT (R92, R186)

/-- BI_CONFLICT is answered as soon as R186 allows. -/
def biConflict (c : Ch) (q : Acc) (s : State) : State :=
  let k := ch s c
  let idle := !(k.tiles[home q.line]).ents.any fun x => x.2.snoops.any fun p =>
    p.agent == q.r.agent && p.laddr == q.line && p.out && p.ans.isNone
  let s := openReq c q .biConflict true false s
  let s := if idle then ev c 0x22 none q.occ s else s
  flushAcks c (modCh c (fun k => { k with biAcks := k.biAcks ++ [(q.rid, q.r.agent, q.r.tag, q.line, q.inst)] }) s)

-- ## The lookup (R99, R100)

/-- The lookup's reads correct what they can, which the bank ports then rewrite (R309). -/
def csReads (c : Ch) (l : LAddr) (s : State) : State :=
  let t := home l
  findTags c l (if rawHeld s c t .sf then s else noteRows c t (dirRows l) s)
/-- Why a lookup decides nothing: 2 the lookup port in raw access, 3 an uncorrectable lookup (event 0x09). -/
def lookupFails (s : State) (c : Ch) (l : LAddr) : Option Nat :=
  if rawHeld s c (home l) .sf || rawHeld s c (home l) .lc then some 2
  else if (lookup (ch s c) l).bad || (dirRows l).any (fun r => rowOutcome (ch s c) (rowKey r.1 (tileOf l) r.2) == .bad) then some 3
  else none

/-- REF of the entry that a lookup with a result finds (R141). -/
def csTouch (c : Ch) (l : LAddr) (s : State) : State :=
  if (lookupFails s c l).isNone then modCh c (touch l) s else s

/-- The channel goes on where it is not fenced for a cause; a lookup may fence it (Table 12-3), and its requests are answered then
(R58). -/
def unlessFenced (c : Ch) (f : State → State) (s : State) : State := if (ch s c).cause == .none then f s else s
/-- The lookup that the acceptance of a line launches, whatever then becomes of the request (R99): its reads, and the line-cache
lookup counted (0x35) but for a bank in raw access, which returns no result (R100; DEDUCED, assumption 79). -/
def launch (c : Ch) (q : Acc) (s : State) : State :=
  unlessFenced c (fun s =>
  let s := csReads c q.line s
  if rawHeld s c (home q.line) .lc then s
  else
    let kind := (if (lcFind (ch s c) q.line).isSome then 0 else 2) + (wbPolicy s c q.line).toNat
    ev c 0x35 (some kind) q.occ s) s

-- ## Table 4-2

/-- The grant and the directory after, where Table 4-2 lists the opcode with the state found. -/
def csDecide (s : State) (c : Ch) (op : ReqOp) (sub : BitVec 7) (a : AgentId) (lk : Look) (hit : Bool) :
    Option (BitVec 3 × Dir) :=
  let grows := lk.sway.isSome && lk.owner == a
  match op, lk.dir with
  | .rdShd, .i => some (grantS, if grows then .region a else .s (.ptrs [a]) none)
  | .rdAny, .i | .rdOwn, .i => some (grantE, if grows then .region a else .x a)
  | .rdShd, .s sh f | .rdAny, .s sh f =>
    if sh.takes a then some (grantS, .s (sh.add a false) f) else none
  | .rdOwn, .s sh _ => if sh.only a then some (grantE, .x a) else none
  | .rdCur, .i => some (grantI, .i)
  | .rdCur, .s sh f => some (grantI, .s sh f)
  | .upgrade, .s sh f =>
    if wantE sub then (if sh.only a then some (grantE, .x a) else none)
    else if sh.exact && sh.has a then some (grantS, .s sh f) else none
  | .invAll, .i => if ntOf sub && hit then none else some (grantI, .i)
  | .wrFull, d =>
    let holder := match d with
      | .i => true
      | .s sh _ => sh.only a
      | .x o => o == a
      | .region o => o == a
    let r := afterWrite (ch s c) sub a d
    if holder then some (r.2, match d with | .s _ _ => if r.2 == grantS then d else r.1 | _ => r.1) else none
  | _, _ => none

/-- The edge on which a decision's update lands: its verdict edge, or that of an older update of the same sets where it is
later, since updates to one set are written in order (R105; DESIGN CHOICE, assumption 96). -/
def landEdge (s : State) (c : Ch) (q : Acc) : Nat :=
  ((ch s c).landings.filter fun d => setsMeet q.line d.line).foldl (fun n d => max n d.edge) (s.pclk + 2 + q.x)
/-- Where an update goes once those before it have landed. -/
def placeAhead (s : State) (c : Ch) (q : Acc) (after : Dir) : Place :=
  placeFor (modCh c ahead s) c q.line after q.r.agent q.r.way
/-- The directory update of a decision, which is written on the verdict edge and guards the line until then (R101, R105, R180). -/
def csUpdate (c : Ch) (q : Acc) (after : Dir) (s : State) : State :=
  if (lookup (ch s c) q.line).dir == after then s
  else
    let d : Landing := ⟨q.line, landEdge s c q, after, placeAhead s c q after, q.r.agent, q.inst⟩
    modCh c (fun k => { k with landings := k.landings ++ [d] }) s
/-- The update fits without an eviction (R104, condition 6). -/
def csFits (s : State) (c : Ch) (q : Acc) (after : Dir) : Bool :=
  (lookup (ch s c) q.line).dir == after || placeAhead s c q after != .full

-- ## Entries for requests (R104, R107, R178, R210 to R212)

/-- A fresh entry of a request's line. -/
def reqEntry (kind : EKind) (op : ReqOp) (r : ReqIn) (inst : InstId) (l : LAddr) (rid : Nat) (age : BitVec 32)
    (dl : BitVec 21) (head dd : Bool) : Entry :=
  { Entry.blank kind .none l rid age dl with
    port := some r.port, op := some op, agent := r.agent, tag := r.tag, subtype := r.subtype, inst := inst
    prio := r.prio, head := head, ddIssued := dd }

/-- The instance is at its tracker maximum (R211). -/
def atMax (s : State) (c : Ch) (i : InstId) : Bool := decide (trMax s c i ≤ trCount (ch s c) i)
/-- An entry of a general pool goes to a request of an instance below its minimum, out of the guard (R212, 0x2A). -/
def guardTaken (s : State) (c : Ch) (t : TileId) (i : InstId) : Bool :=
  anyBelow s c && decide (trCount (ch s c) i < trMin s c i) && decide (genFree s c t ≤ minGuard s c)

/-- The request is handed to its home tile over the rings (R269). -/
def handOver (c : Ch) (t : TileId) (n : Nat) (s : State) : State :=
  match entry? (tile s c t) n with
  | none => s
  | some e =>
    let h := { mkHdr ((e.op.getD .rdCur).code) e.agent e.tag e.laddr e.inst e.subtype with
      anchor := e.kind == .anchored, prio := e.prio }
    modCh c (sendIn t .req 0 h 0 (.handoff n)) (modEntry c t n (fun e => { e with arrived := false }) s)

/-- Take an entry for a line: the bound reserve entry of an anchored request, else a general one where `free` has one for it; none
when there is none. -/
def takeEntry (c : Ch) (op : ReqOp) (r : ReqIn) (inst : InstId) (l : LAddr) (rid : Nat) (age : BitVec 32) (kind : EKind)
    (head dd free : Bool) (s : State) : State × Option Nat :=
  let t := home l
  let dl := deadlineOf s c r.prio.toNat
  let o := occOf l r.agent inst
  match freeEntry (tile s c t) with
  | none => (s, none)
  | some n =>
    if boundTo (ch s c) r.agent l then
      let s := modCh c (fun k => { k with anchors := Tab.drop k.anchors r.agent.toNat }) s
      let e := reqEntry .anchored op r inst l rid age dl head dd
      let s := ev c 0x25 none o s
      if kind == .clearSky then (openEntry c t n { e with work := .clearSky } s, some n)
      else (handOver c t n (openEntry c t n e s), some n)
    else if free then
      let s := if guardTaken s c t inst then ev c 0x2A none o s else s
      let s := openEntry c t n (reqEntry kind op r inst l rid age dl head dd) s
      (if kind == .clearSky then s else handOver c t n s, some n)
    else (s, none)

/-- Wait in the port's handoff buffer (Table 2-2). -/
def handoffWait (c : Ch) (q : Acc) (dd : Bool) (s : State) : State :=
  ev c 0x29 none q.occ (modCh c (fun k => { k with hoff := k.hoff ++
    [⟨some q.r.port, q.r, q.op, q.line, q.inst, q.age, q.rid, tileOf q.line, dd, false⟩] }) s)

/-- A general entry of the line's tile is free for a request of the instance (R212). -/
def entryFree (s : State) (c : Ch) (l : LAddr) (i : InstId) : Bool := decide (0 < genFreeFor s c (home l) i)
/-- Allocate for a line, or wait; the WDATA belongs to the entry's flow. -/
def allocate (c : Ch) (q : Acc) (head dd : Bool) (s : State) : State × Option Nat :=
  match takeEntry c q.op q.r q.inst q.line q.rid q.age .request head dd (entryFree s c q.line q.inst) s with
  | (s, some n) => (modCh c (useW q.rid (.flow (tileOf q.line) n)) s, some n)
  | (s, none) => (handoffWait c q dd (modCh c (useW q.rid (.flow (tileOf q.line) 160)) s), none)

/-- The flow of a request handed on with its lookup starts from what the lookup found; the clear-sky path sends its first
snoop where a landing place for its SDATA is free (R109, R467). -/
def firstSnoop (c : Ch) (q : Acc) (n : Nat) (dd : Bool) (s : State) : State :=
  let t := home q.line
  let d := (lookup (ch s c) q.line).dir
  let src := planSource s c q.op dd (lcHit (ch s c) q.line) d (some q.r.agent)
  if (snoopSet s c q.op q.r.subtype (some q.r.agent) d src).isEmpty then s
  else
    let s := startFlow c t n d none s
    match (entry? (tile s c t) n).bind fun e => e.snoops.find? fun p => p.ans.isNone with
    | none => s
    | some p =>
      if !sdataFree (ch s c) then s
      else
      let s := modEntry c t n (markSent p.agent q.line s.tick) s
      modCh c (fun k => push .sno (snpPkt k t n p q.inst .flow (s.pclk + 3 + q.x) (portLane q.r.port)) k) s

-- ## One permitted line

/-- The speculative read (R111): due on MRQ at edge 1. -/
def specRead (c : Ch) (q : Acc) (s : State) : State :=
  let h := { mkHdr 0x39 q.r.agent q.r.tag q.line q.inst 0 with hold := true }
  ev c 0x0B (some 0) q.occ (modCh c (push .mrq (mkPkt h (s.pclk + 1 + q.x) (portLane q.r.port) (some q.rid))) s)
/-- R111 issues a speculative read for the line; none is for a line of a retired page, the gate's denial or not (R324). -/
def specDue (s : State) (c : Ch) (q : Acc) (single : Bool) : Bool :=
  let k := ch s c
  q.op.isRead && single && cfC s c 2 0x40 0 1 == 1 && !k.pgRet.contains (regionOf q.line) && !rawHeld s c (home q.line) .lc &&
    (lcFind k q.line).isNone && !drainHold k && !openLine k q.line && !collision k q.line s.pclk

/-- A read decided on the clear-sky path (R106, R112, R113): GO, or HOME with its data. The MEM_RD of R113 is placed as a
flow's is: a frame is reserved for its fill under WB (Table 19-2). -/
def csRead (c : Ch) (q : Acc) (g : BitVec 3) (spec : Bool) (data : Option (Line × Bool)) (s : State) : State :=
  match data with
  | some (d, p) => csVerdict c q .home (rdataSub g 0) false (csData c q g 0 d p s)
  | none =>
    if spec then ev c 0x0B (some 1) q.occ (csVerdict c q .go (rdataSub g 0) false s)
    else
      let t := home q.line
      match freeSlot (ch s c) t with
      | none => s
      | some n =>
        let v : NSlot := ⟨q.line, false, q.rid, q.r.agent, q.r.tag, q.inst, g, s.tick, false⟩
        let s := if placesWb s c q.line then
            reserveFill c q.occ q.line false (homeTag t n (genOf (tile s c t) n + 1)) s
          else s
        let s := slotRead c t n v (s.pclk + 1 + q.x) (portLane q.r.port) s
        let s := modCh c (modReq q.rid fun o => { o with awaitD := true }) s
        csVerdict c q .home (rdataSub g 0) false s

/-- A decided line (R105): directory update, verdict, and for a write the entry that holds the line until the data is placed
(R107). -/
def csDecided (c : Ch) (q : Acc) (g : BitVec 3) (after : Dir) (spec : Bool) (data : Option (Line × Bool)) (s : State) :
    State :=
  let s := if q.op == .wrFull then s else useBinding c q.r.agent q.line q.inst s
  let s := ev c 0x08 none q.occ (csUpdate c q after s)
  if q.op.isRead then csRead c q g spec data s
  else
    let s := csVerdict c q .cmp (rdataSub g 0) false s
    if q.op == .wrFull then
      match takeEntry c q.op q.r q.inst q.line q.rid q.age .clearSky true false (entryFree s c q.line q.inst) s with
      | (s, some n) =>
        let s := modEntry c (home q.line) n (fun e => { e with updated := true, verdict := true }) s
        modCh c (useW q.rid (.clearSky (tileOf q.line) n)) s
      | (s, none) => s
    else s

/-- Hand a line on to an engine (R104, R109), counted with its reason. The clear-sky path sends the first snoop where the lookup
has decided nothing for want of a row of Table 4-2 or of room; of a line handed on for a collision, raw access or a lost row its
engine sends it (DESIGN CHOICE, assumption 98: R109 does not name the reasons). The early fetch of its sets, which is dropped
with a request that the clear-sky path answers, stays at the bank port (R100, Table 8-9). -/
def handOn (c : Ch) (q : Acc) (why : Nat) (spec : Bool) (s : State) : State :=
  if atMax s c q.inst && !boundTo (ch s c) q.r.agent q.line then csRetry c q 0 spec s
  else
    let s := askPort c (home q.line) .sf (.fetch q.rid) clsFetch q.age (ev c 0x09 (some why) q.occ s)
    match allocate c q true spec s with
    | (s, some n) => if why = 0 then firstSnoop c q n spec s else s
    | (s, none) => s

/-- Join the chain of an open line (R178). -/
def joinChain (c : Ch) (q : Acc) (s : State) : State :=
  if atMax s c q.inst && !boundTo (ch s c) q.r.agent q.line then csRetry c q 0 false s
  else planLine c q.line (allocate c q false false (ev c 0x1F none q.occ s)).1

/-- What the clear-sky path needs besides Table 4-2: an MRS landing place and a slot for a read under R113, a tracker entry
for a write (R104, R113). -/
def csRoom (s : State) (c : Ch) (q : Acc) (spec hit : Bool) : Bool :=
  if q.op.isRead then hit || spec || (mrsFree (ch s c) && (freeSlot (ch s c) (home q.line)).isSome)
  else if q.op == .wrFull then
    (freeEntry (tile s c (home q.line))).isSome && (boundTo (ch s c) q.r.agent q.line ||
      entryFree s c q.line q.inst && !atMax s c q.inst)
  else true

/-- A line that no one holds (R104): decided where Table 4-2 and its conditions allow, else handed on. A tag hit whose clean frame
is lost as it is read is a miss (Table 12-3): it is answered as R113 answers one. -/
def csLine (c : Ch) (q : Acc) (single : Bool) (s : State) : State :=
  let s := csTouch c q.line s
  let hit := (lcFind (ch s c) q.line).isSome
  let spec := specDue s c q single
  let s := if spec then specRead c q s else s
  let fail := lookupFails s c q.line
  let lk := lookup (ch s c) q.line
  match fail with
  | some why => handOn c q why spec s
  | none =>
    if collision (ch s c) q.line s.pclk then handOn c q 1 spec s
    else
      match (if single then csDecide s c q.op q.r.subtype q.r.agent lk hit else none) with
      | none => handOn c q 0 spec s
      | some (g, after) =>
        if !csFits s c q after then handOn c q 0 spec s
        else if q.op.isRead && hit then
          match lcLook c q.occ q.line s with
          | (s, some d) => csDecided c q g after false (some d) s
          | (s, none) => if csRoom s c q false false then csDecided c q g after false none s else handOn c q 3 false s
        else if csRoom s c q spec hit then csDecided c q g after spec none s
        else handOn c q 0 spec s

/-- A permitted line that needs an answer, or an EVICT handed on (R178, R185, R194). -/
def serveLine (c : Ch) (single : Bool) (q : Acc) (s : State) : State :=
  let k := ch s c
  match (if q.op.isWrite then absorber k q.r.agent q.line else none) with
  | some (n, e) => absorbNow c q n e s
  | none =>
    if drainHold k || (maintHeld k q.line && !boundTo k q.r.agent q.line) then csRetry c q 1 false s
    else if openLine k q.line then joinChain c q s
    else csLine c q single s

-- ## EVICT and denials

/-- The effect of an EVICT on an unheld line (Table 4-2, R132, R133). -/
def evictDir (c : Ch) (q : Acc) (s : State) : State :=
  csUpdate c q ((lookup (ch s c) q.line).dir.strike q.r.agent) s
/-- The EVICT row of Table 4-2 holds: the requester is a recorded holder, and its removal changes no format (R130). -/
def csEvicts (d : Dir) (a : AgentId) : Bool :=
  match d with
  | .s sh _ => sh.yields a
  | d => d.records a
/-- What an EVICT does to the directory where the lookup decides it: a requester not recorded is only counted (R105). -/
def evictApply (c : Ch) (q : Acc) (s : State) : State := evictDir c q (ev c 0x08 none q.occ s)
/-- EVICT (R104, R105, R184). -/
def evictLine (c : Ch) (q : Acc) (s : State) : State :=
  if drainHold (ch s c) || openLine (ch s c) q.line || collision (ch s c) q.line s.pclk then ev c 0x21 none q.occ s
  else
    match lookupFails s c q.line with
    | some why => handOn c q why false s
    | none =>
      let d := (lookup (ch s c) q.line).dir
      if csEvicts d q.r.agent || !d.records q.r.agent then evictApply c q s else handOn c q 0 false s

/-- A denied posted write (R297): CMP GRANT I, and on the directory what an EVICT would do. Where its lookup gives no result the
change is dropped, since the write takes no entry (DESIGN CHOICE, assumption 64); an uncorrectable set is reported. -/
def deniedWrite (c : Ch) (q : Acc) (s : State) : State :=
  let s := csVerdict c q .cmp 0 false s
  if drainHold (ch s c) || openLine (ch s c) q.line || collision (ch s c) q.line s.pclk then ev c 0x21 none q.occ s
  else
    match lookupFails s c q.line with
    | none => evictApply c q s
    | some 3 => if (lookup (ch s c) q.line).bad then dirError c q.line s else s
    | some _ => s
/-- Any other denied line (R108, R296). -/
def deniedLine (c : Ch) (q : Acc) (single : Bool) (s : State) : State :=
  let spec := specDue s c q single
  let s := if spec then ev c 0x0B (some 2) q.occ (specRead c q s) else s
  csVerdict c q .err (endSub errGate spec) false s

/-- A line of a retired page (R324). -/
def retiredLine (c : Ch) (q : Acc) (s : State) : State :=
  if q.op.isRead then csVerdict c q .home 0 false (csData c q grantI 1 0 true s)
  else if q.op == .atomic then csVerdict c q .home 0 false (csData c q grantI 3 0 true s)
  else csVerdict c q .cmp 0 false s

-- ## The request

/-- The acceptance lookup of a read missed the line-cache tags (R99), and the next line is looked up for a prefetch (R251). -/
def prefetches (s : State) (c : Ch) (q : Acc) : Bool :=
  q.op.isRead && !drainHold (ch s c) && !rawHeld s c (home q.line) .lc && (lcFind (ch s c) q.line).isNone &&
    prefetchOn s c q.line

/-- The permitted lines of a request, and then the prefetches of its missed reads, due on edge 2 (R251). -/
def permittedReq (c : Ch) (q : Acc) (lines : List Acc) (serve : Acc → State → State) (s : State) : State :=
  forEach (lines.filter (prefetches s c)) (fun l t => prefetch c l.line (s.pclk + 2 + q.x) t) (forEach lines serve s)

/-- A line with ANCHOR 1 that finds no binding is counted (R194), as an anchored request is (DESIGN CHOICE, assumption 63). -/
def anchorBit (c : Ch) (q : Acc) (s : State) : State :=
  if q.r.anchor && !boundTo (ch s c) q.r.agent q.line then ev c 0x25 none q.occ s else s

/-- A gate-checked request (R289, R295 to R297): one decision at its first byte, then its lines in order. -/
def gatedReq (c : Ch) (q : Acc) (lines : List Acc) (s : State) : State :=
  let rights := gateCheck s c (.irq q.r.agent q.inst) q.line
  let ok := permits q.op rights
  let s := gateEvents c ok rights.byMap q.op.isWrite.toNat q.occ s
  let s := if !ok && q.op.isWrite then noteDenied c q.line q.r.agent q.inst s else s
  let s := forEach lines (fun l s => expectW c l .drop (openReq c l q.op true q.op.hasData (anchorBit c l s))) s
  let s := forEach lines (launch c) s
  let each (f : Acc → State → State) (s : State) : State := forEach lines (fun l => unlessFenced c (f l)) s
  let unbound (l : Acc) (s : State) : State := useBinding c l.r.agent l.line l.inst s
  let single := decide (lines.length = 1)
  if !ok then
    if q.op.isWrite then each (fun l s => deniedWrite c l (unbound l s)) s
    else each (fun l s => deniedLine c l single (unbound l s)) s
  else if (ch s c).pgRet.contains (regionOf q.line) then each (fun l s => retiredLine c l (unbound l s)) s
  else unlessFenced c (permittedReq c q lines (fun l => unlessFenced c (serveLine c single l))) s

/-- An accepted request with a valid opcode that no row of Table 4-1 refuses. -/
def serveReq (c : Ch) (q : Acc) (lines : List Acc) (s : State) : State :=
  match q.op with
  | .rdSpec => ev c 0x0A none q.occ s
  | .evict => unlessFenced c (evictLine c q) (launch c q s)
  | .biConflict => biConflict c q s
  | _ => gatedReq c q lines s

/-- The lines of an accepted request. -/
def accLines (op : ReqOp) (r : ReqIn) (inst : InstId) (rid : Nat) (age : BitVec 32) (x n : Nat) : List Acc :=
  (List.range n).map fun k => ⟨op, r, inst, r.laddr + BitVec.ofNat 46 k, rid + k, age, x⟩

/-- A request crosses its port: acceptance, then refusal or service. `op` is none for an invalid opcode. -/
def acceptAct (c : Ch) (op : Option ReqOp) (code : BitVec 6) (r : ReqIn) (s : State) : State :=
  let k := ch s c
  let inst := resolve k r.agent r.psel
  let o := op.getD .biConflict
  let n := match op with | some o => linesOf o r.subtype | none => 1
  let why := refusal s c op r inst
  let s := acceptCount c r inst n s
  let x := (stretched (ch s c) r.port).toNat
  let lines := accLines o r inst k.nextRid k.age x n
  let q : Acc := ⟨o, r, inst, r.laddr, k.nextRid, k.age, x⟩
  match why with
  | some order => refuseAct c order code q lines s
  | none => serveReq c q lines s

/-- A request presented on a port: PCLK edges pass, and it crosses if the port can take it. One that the edge of a fence finds
accepted is answered ERR FENCED where it has no answer yet (R58): HA_FENCE comes from a flop (R28), so its rise is after that
edge. -/
def request (c : Ch) (op : Option ReqOp) (code : BitVec 6) (r : ReqIn) (s : State) : State :=
  let s := passEdges r.gap s
  if mayAccept s c r.port then
    let s := acceptAct c op code r s
    if (ch s c).cause == .none || op == some .rdSpec || op == some .evict then s else answerFenced c s
  else s

/-- RD_SHD (R104, R105). -/
def execRdShd (c : Ch) (r : ReqIn) (s : State) : Host.Outcome State Fault Refusal :=
  .next (request c (some .rdShd) (ReqOp.code .rdShd) r s)
/-- RD_OWN. -/
def execRdOwn (c : Ch) (r : ReqIn) (s : State) : Host.Outcome State Fault Refusal :=
  .next (request c (some .rdOwn) (ReqOp.code .rdOwn) r s)
/-- RD_ANY. -/
def execRdAny (c : Ch) (r : ReqIn) (s : State) : Host.Outcome State Fault Refusal :=
  .next (request c (some .rdAny) (ReqOp.code .rdAny) r s)
/-- RD_CUR. -/
def execRdCur (c : Ch) (r : ReqIn) (s : State) : Host.Outcome State Fault Refusal :=
  .next (request c (some .rdCur) (ReqOp.code .rdCur) r s)
/-- RD_SPEC (R103). -/
def execRdSpec (c : Ch) (r : ReqIn) (s : State) : Host.Outcome State Fault Refusal :=
  .next (request c (some .rdSpec) (ReqOp.code .rdSpec) r s)
/-- UPGRADE. -/
def execUpgrade (c : Ch) (r : ReqIn) (s : State) : Host.Outcome State Fault Refusal :=
  .next (request c (some .upgrade) (ReqOp.code .upgrade) r s)
/-- INV_ALL. -/
def execInvAll (c : Ch) (r : ReqIn) (s : State) : Host.Outcome State Fault Refusal :=
  .next (request c (some .invAll) (ReqOp.code .invAll) r s)
/-- WR_FULL (R107). -/
def execWrFull (c : Ch) (r : ReqIn) (s : State) : Host.Outcome State Fault Refusal :=
  .next (request c (some .wrFull) (ReqOp.code .wrFull) r s)
/-- WR_PTL. -/
def execWrPtl (c : Ch) (r : ReqIn) (s : State) : Host.Outcome State Fault Refusal :=
  .next (request c (some .wrPtl) (ReqOp.code .wrPtl) r s)
/-- ATOMIC. -/
def execAtomic (c : Ch) (r : ReqIn) (s : State) : Host.Outcome State Fault Refusal :=
  .next (request c (some .atomic) (ReqOp.code .atomic) r s)
/-- EVICT (R184). -/
def execEvict (c : Ch) (r : ReqIn) (s : State) : Host.Outcome State Fault Refusal :=
  .next (request c (some .evict) (ReqOp.code .evict) r s)
/-- BI_CONFLICT (R186). -/
def execBiConflict (c : Ch) (r : ReqIn) (s : State) : Host.Outcome State Fault Refusal :=
  .next (request c (some .biConflict) (ReqOp.code .biConflict) r s)
/-- An opcode invalid on IRQ (R74): refused under row 2 of Table 4-1, unless row 1 applies. -/
def execIrqInvalidOpcode (c : Ch) (r : ReqIn) (opcode : BitVec 6) (s : State) : Host.Outcome State Fault Refusal :=
  .next (if irqOpcode opcode then passEdges r.gap s else request c none opcode r s)

end Sys2Proof.Machine
end

