-- ==== Sys2Proof/Machine/Chain.lean ====
section
/-! DEFINITION. The chains of the lines and the entries they are served from (R179, R189, R193, R210 to R212): the next head of a
line, the request a freed entry goes to, and an entry that is dropped with all that follows. -/

namespace Sys2Proof.Machine

-- ## Engines and pool accesses

/-- A flow that gives up its engine releases its grants and withdraws its bank requests (R217, R232). So does one that is
preempted: neither R232 nor R237 says what becomes of its grant and of the stamps of its waiting request (DESIGN CHOICE,
assumption 97). -/
def leaveEngine (n : Nat) (x : Tile) : Tile :=
  { x with
    run0 := if x.run0 == some n then none else x.run0
    run1 := if x.run1 == some n then none else x.run1
    sfGrant := x.sfGrant.filter (·.ent != n)
    lcGrant := x.lcGrant.filter (·.ent != n)
    sfReqs := x.sfReqs.filter (·.who != .flow n)
    lcReqs := x.lcReqs.filter (·.who != .flow n) }

/-- A RETRY of the open pool access (R474): it is reissued 100 ticks later, without an anchor. -/
def paRetryAt (c : Ch) (rid reason : Nat) (o : Occ) (s : State) : State :=
  ev c 0x24 (some reason) o (modCh c (fun k =>
    if k.paBusy.any fun p => p.2.2 == rid then { k with paRetry := some (s.tick + 100) } else k) s)

-- ## Chains (R179, R189)

/-- Something holds the line: its head, or work that is no request (R178). -/
def lineHeld (t : Tile) (l : LAddr) : Bool :=
  t.ents.any fun x => x.2.covers t x.1 l && (if x.2.isRequest then x.2.absorbedBy.isNone && x.2.head else true)

/-- The member that may become head (R178): the first of the chain, with no older request waiting for an entry, and accepted
before a maintenance step took the line. -/
def nextHead (k : Channel) (l : LAddr) : Option (Nat × Entry) :=
  let t := k.tiles[home l]
  if lineHeld t l then none
  else ((chain t l).head?).filter fun x =>
    !(k.hoff.any fun w => w.line == l && decide (w.rid < x.2.rid)) &&
      (match jobHold k l with | some since => decide (x.2.rid < since) | none => true)

/-- A plan fits the state and tags found (R189), and its snoops are those that the agents' kinds still call for (R75, R156). -/
def planFits (s : State) (c : Ch) (e : Entry) (p : Plan) (d : Dir) : Bool :=
  !collision (ch s c) e.laddr s.pclk && p.before == d && p.hit == lcHit (ch s c) e.laddr && !(lookup (ch s c) e.laddr).bad &&
    (p.source != .forwarder || (usableFwd s c d e.who).isSome) &&
    e.op.any fun op => p.snoops == snoopSet s c op e.subtype e.who d p.source
/-- The head starts from its plan where the plan still fits (R189), else by a fresh lookup. -/
def headStart (c : Ch) (t : TileId) (n : Nat) (s : State) : State :=
  match entry? (tile s c t) n with
  | none => s
  | some e =>
    match e.plan with
    | none => s
    | some p =>
      let d := (lookup (ch s c) e.laddr).dir
      if planFits s c e p d then
        startFlow c t n d (some p) (ev c 0x23 (some 1) (occE t e) s)
      else
        let s := modEntry c t n (fun e => { e with plan := none }) s
        discardPlans c (fun x => x.laddr == e.laddr) (ev c 0x23 (some 2) (occE t e) s)

/-- A request of a retired page that was accepted before it was retired, and waited, is answered as R324 answers one: its flow
reads no directory and records nothing, its data is dropped, and what it sends is poison. -/
def retireFlow (c : Ch) (t : TileId) (n : Nat) (e : Entry) (s : State) : State :=
  let s := if e.operand.isSome then modCh c (dropped e.rid) s else modCh c (useW e.rid .drop) s
  modEntry c t n (fun e => { e with
    fetched := true, found := .i, updated := true, placed := true, plan := none, opMissing := false
    rdata := some (0, true), rsrc := if e.op == some .atomic then 3 else 1
    operand := some (0, 0, true), value := some (0, true), merging := false }) s
/-- The next member of a line's chain becomes head (R179). -/
def promote (c : Ch) (l : LAddr) (s : State) : State :=
  match nextHead (ch s c) l with
  | none => s
  | some (n, e) =>
    let s := modEntry c (home l) n (fun e => { e with head := true, readyAt := s.tick }) s
    if (ch s c).pgRet.contains (regionOf l) then retireFlow c (home l) n e s
    else takeBuffer c (home l) n (headStart c (home l) n s)
/-- The lines that the recoveries of a channel have released go to the requests that wait for them (R337). A line is free as
soon as its data is placed; the member of its chain becomes head at the next tick (assumption 115). -/
def releaseRecovered (c : Ch) (s : State) : State :=
  forEach allTiles (fun t s => forEach ((tile s c t).ents.filter (·.2.work == .recovery)) (fun x s =>
    forEach (x.2.snoops.map (·.laddr)).eraseDups (promote c) s) s) s

-- ## Waiting requests (R210, R212)

/-- The waiting request a freed general entry of tile t goes to (R212): of those for one line the oldest. -/
def chosenWaiter (s : State) (c : Ch) (t : TileId) : Option Waiter :=
  let k := ch s c
  let ws := k.hoff.filter fun w => w.tile == t.val
  let below := ws.filter fun w => decide (trCount k w.inst < trMin s c w.inst)
  let pick := match (if bgGiven k t < genFree s c t then leastBy (·.rid) below else none) with
    | some w => some w
    | none => if bgGiven k t < genOpen s c t then leastBy (·.rid) ws else none
  pick.bind fun w => leastBy (·.rid) (ws.filter fun v => v.line == w.line)

/-- The operation a pool access runs as (R474). -/
def paOp (k : Channel) : ReqOp :=
  match k.paBusy with
  | some (_, true, _) => if k.paW.2.2 == ~~~0 then .wrFull else .wrPtl
  | _ => .rdCur
/-- Take a general entry of the line's tile for the open pool access (R474): class REQ_P0, instance 0, KEEP I or LINES 0, its
data from the latched registers. It is handed to its tile like a request. -/
def poolEntry (c : Ch) (l : LAddr) (rid : Nat) (age : BitVec 32) (head free : Bool) (s : State) : State × Option Nat :=
  let t := home l
  match freeEntry (tile s c t) with
  | none => (s, none)
  | some n =>
    if !free then (s, none)
    else
      let k := ch s c
      let op := paOp k
      let e := { Entry.blank .request .none l rid age (deadlineOf s c 0) with
        op := some op, agent := Config.poolAgent, head := head
        operand := if op == .rdCur then none else some (k.paW.2.1, k.paW.2.2, false) }
      let seq := (k.paBusy.map (·.1)).getD 0
      (takeBuffer c t n (handOver c t n (openEntry c t n e (jSet seq .running s))), some n)

/-- A waiting request takes an entry: its landed data goes with it, and it joins its line's chain. -/
def serveWaiter (c : Ch) (t : TileId) (s : State) : State :=
  match chosenWaiter s c t with
  | none => s
  | some w =>
    match (if w.port.isSome then takeEntry c w.op w.req w.inst w.line w.rid w.age .request false w.dd true s
      else poolEntry c w.line w.rid w.age false true s) with
    | (s, none) => s
    | (s, some n) =>
      let s := modCh c (fun k => { k with hoff := k.hoff.filter fun v => v.rid != w.rid }) s
      let s := match (ch s c).wexp.find? fun x => x.rid == w.rid with
        | none => if w.lost then modEntry c t n (fun e => { e with opMissing := true }) s else s
        | some x =>
          match x.data with
          | some v => takeBuffer c t n (modEntry c t n (fun e => { e with operand := some v }) (modCh c (landed w.rid) s))
          | none => modCh c (useW w.rid (.flow t n)) s
      planLine c w.line (promote c w.line s)

/-- The lines an entry has held. -/
def heldLines (e : Entry) : List LAddr :=
  if e.region then (List.range 64).map fun j => BitVec.ofNat 46 (e.laddr.toNat / 64 * 64 + j)
  else (e.laddr :: e.snoops.map (·.laddr)).eraseDups

/-- Every waiting request that an entry can be had for takes one, and what is left goes to waiting background steps (R212). -/
def serveWaiters (c : Ch) (s : State) : State :=
  forEach allTiles (giveBg c) (forEach (ch s c).hoff (fun w s => serveWaiter c (tileN w.tile) s) s)
/-- Entry n is free: the reserve rebinds (R193), waiting requests take what they can have (R212), and the lines it held go on to
their next member (R179). -/
def dropEntry (c : Ch) (t : TileId) (n : Nat) (e : Entry) (s : State) : State :=
  let s := modTile c t (fun x => dropAsk .sf (.fetch e.rid) { leaveEngine n x with ents := Tab.drop x.ents n }) s
  let s := forEach (e.rid :: e.owes) (fun r => modCh c (modReq r fun q => { q with awaitP := false })) s
  forEach (heldLines e) (promote c) (serveWaiters c (bindNext c t (grantMerge c t s)))

end Sys2Proof.Machine
end

