-- ==== Sys2Proof/Machine/Rows.lean ====
section
/-! DEFINITION. The rows of the tracker and of the flow contexts (Tables 8-1, 8-3, 21-7): what the entries give them, what a raw write
leaves in them (R317, R322), and how a read finds them (R309, R310, R333). -/

namespace Sys2Proof.Machine

/-- KIND (Table 8-1). -/
def EKind.code : EKind → Nat
  | .request => 1 | .anchored => 2 | .clearSky => 3 | .evict => 4 | .background => 5
/-- The 192 bits of entry n of a tile (Table 8-1); an entry that is not in use is zero but for GEN. -/
def entryBits (t : Tile) (n : Nat) : Nat :=
  let gen := (genOf t n).toNat * 2 ^ 188
  match entry? t n with
  | none => gen
  | some e =>
    1 + e.kind.code * 2 + e.laddr.toNat * 2 ^ 4 + e.agent.toNat * 2 ^ 50 +
      (match e.op with | some o => o.code.toNat | none => 0) * 2 ^ 58 + e.age.toNat * 2 ^ 64 + e.tag.toNat * 2 ^ 96 +
      e.subtype.toNat * 2 ^ 112 + e.inst.toNat * 2 ^ 119 + e.head.toNat * 2 ^ 127 + e.prio.toNat * 2 ^ 128 +
      e.deadline.toNat * 2 ^ 130 + nextOf t n e * 2 ^ 151 + e.plan.isSome.toNat * 2 ^ 159 + e.oddRan.toNat * 2 ^ 160 +
      n / 2 * 2 ^ 161 + e.progress.toNat * 2 ^ 168 + e.cutoffs.toNat * 2 ^ 184 + e.ddIssued.toNat * 2 ^ 186 +
      e.dataRcvd.toNat * 2 ^ 187 + gen
/-- A set of agents as 256 bits. -/
def agentSet (l : List Snp) : Nat := (l.map (·.agent)).eraseDups.foldl (fun n a => n + 2 ^ a.toNat) 0
/-- The context of entry n, its 16 words (Table 8-3). -/
def contextBits (t : Tile) (n : Nat) : Nat :=
  match entry? t n with
  | none => 0
  | some e =>
    e.reg0.toNat + e.reg1.toNat * 2 ^ 64 + e.reg2.toNat * 2 ^ 128 + e.reg3.toNat * 2 ^ 192 + agentSet e.snoops * 2 ^ 256 +
      agentSet (e.snoops.filter (·.ans.isSome)) * 2 ^ 512 + (Config.contextTail e.resume.toNat e.stamp n).toNat * 2 ^ 768
/-- Eight words of a number. -/
def eightWords (v : Nat) : List Word := (List.range 8).map fun k => BitVec.ofNat 64 (v / 2 ^ (64 * k))
/-- The entries a tracker or context row holds, as its first entry and their number (Table 21-7). -/
def rowEntry (arr row : Nat) : Nat := if arr = 5 then 2 * row else 2 * (row % 160 / 2) + row / 160
/-- The words that the entries of a tile give a tracker or context row. -/
def entryWords (x : Tile) (arr row : Nat) : List Word :=
  if arr = 5 then eightWords (entryBits x (2 * row) + entryBits x (2 * row + 1) * 2 ^ 192)
  else eightWords (contextBits x (rowEntry 6 row) / 2 ^ (512 * (row % 2)))
/-- What a raw write left in a row: it stays until the row is next written, which shows in the entries (R317, R322). A write
reads the row first and mends it (R307); an uncorrectable one stays as it is until it is rebuilt. -/
def overOf (x : Tile) (t arr row : Nat) : Option Over :=
  (Tab.get? x.overlay (rowKey arr t row)).filter fun o => decodeBlock o.row o.col == .bad || entryWords x arr row == o.base
/-- A write of the row has read and mended an error planted there (R307), which no read has counted yet. -/
def mendedOver (x : Tile) (t arr row : Nat) : Option Over :=
  (Tab.get? x.overlay (rowKey arr t row)).filter fun o =>
    decodeBlock o.row o.col != .bad && decodeBlock o.row o.col != .good && entryWords x arr row != o.base
/-- The words of a tracker or context row. -/
def liveRow (x : Tile) (t arr row : Nat) : List Word :=
  match overOf x t arr row with
  | some o => o.words
  | none => entryWords x arr row
/-- The row has been written since the last reset. -/
def liveValid (x : Tile) (t arr row : Nat) : Bool :=
  let n := rowEntry arr row
  (Tab.get? x.overlay (rowKey arr t row)).isSome || (Tab.get? x.gens n).isSome ||
    (arr == 5 && (Tab.get? x.gens (n + 1)).isSome)

/-- The request opcode of a code. -/
def opOfCode (v : Nat) : Option ReqOp :=
  [ReqOp.rdShd, .rdOwn, .rdAny, .rdCur, .rdSpec, .upgrade, .invAll, .wrFull, .wrPtl, .atomic, .evict, .biConflict].find? fun p =>
    p.code.toNat == v
/-- The fields of Table 8-1 that a raw write gives an entry in use. -/
def withBits (v : Nat) (e : Entry) : Entry :=
  let f (lo n : Nat) : Nat := v / 2 ^ lo % 2 ^ n
  { e with
    kind := (match f 1 3 with | 1 => .request | 2 => .anchored | 3 => .clearSky | 4 => .evict | 5 => .background | _ => e.kind)
    laddr := BitVec.ofNat 46 (f 4 46)
    agent := BitVec.ofNat 8 (f 50 8)
    op := e.op.map fun o => (opOfCode (f 58 6)).getD o
    age := BitVec.ofNat 32 (f 64 32)
    tag := BitVec.ofNat 16 (f 96 16)
    subtype := BitVec.ofNat 7 (f 112 7)
    inst := BitVec.ofNat 8 (f 119 8)
    head := f 127 1 == 1
    prio := BitVec.ofNat 2 (f 128 2)
    deadline := BitVec.ofNat 21 (f 130 21)
    oddRan := f 160 1 == 1
    progress := BitVec.ofNat 16 (f 168 16)
    cutoffs := BitVec.ofNat 2 (f 184 2)
    ddIssued := f 186 1 == 1
    dataRcvd := f 187 1 == 1 }
/-- The entry that a raw write opens: the fields that the row shows, and a flow that has found and sent nothing yet
(assumption 13). -/
def bitsEntry (rid v : Nat) : Entry :=
  let kind := v / 2 % 8
  let op := if 1 ≤ kind ∧ kind ≤ 3 then opOfCode (v / 2 ^ 58 % 64) else none
  let work : Work := match kind with | 3 => .clearSky | 4 => .eviction | 5 => .victim | _ => .none
  withBits v { Entry.blank .background work 0 rid 0 0 with op := op, fromEvict := kind == 4 }
/-- An entry takes the content of a raw write: a VALID of 0 frees it, one of 1 opens one that is not in use. A PLAN_V of 0 takes
its plan, and a NEXT that differs moves the member it names in the chain; CTX, which follows from the index, is not taken
(assumption 13). -/
def entryFrom (rid n v : Nat) (x : Tile) : Tile :=
  let x := { x with gens := Tab.put x.gens n (BitVec.ofNat 4 (v / 2 ^ 188)) }
  match entry? x n with
  | none => if v % 2 = 1 then { x with ents := Tab.put x.ents n (bitsEntry rid v) } else x
  | some e =>
    if v % 2 = 1 then
      let next := v / 2 ^ 151 % 256
      let e' := withBits v { e with plan := if v / 2 ^ 159 % 2 = 1 then e.plan else none }
      let y := { x with ents := Tab.put x.ents n e' }
      if next = nextOf x n e then y else relink n next e'.laddr y
    else { leaveEngine n x with ents := Tab.drop x.ents n }
/-- The agents of a set of 256 bits in four words. -/
def setAgents (ws : List Word) : List AgentId :=
  ((List.range 256).filter fun a => (ws.getD (a / 64) 0).getLsbD (a % 64)).map (BitVec.ofNat 8)
/-- A flow takes the set of its snooped agents from a context row: the snoops of the agents it names stay, those of others go,
and an agent that is new is still to be snooped. -/
def withSnoops (ws : List Word) (e : Entry) : Entry :=
  let l := setAgents ws
  { e with snoops := e.snoops.filter (fun p => l.contains p.agent) ++
      (l.filter fun a => !e.snoops.any (·.agent == a)).map fun a =>
        ⟨a, e.laddr, .inv, 0, false, false, 0, none, false, none, false, false, false⟩ }
/-- A flow takes the set of the agents that have answered from a context row. The row does not hold the answers: an agent new to
the set has answered RSP_I, one that has left it is snooped again (DESIGN CHOICE, assumption 13). -/
def withAnswers (ws : List Word) (e : Entry) : Entry :=
  let l := setAgents ws
  { e with snoops := e.snoops.map fun p =>
      if l.contains p.agent then (if p.ans.isSome then p else { p with ans := some .i, out := false, dataDue := false })
      else if p.ans.isSome then { p with ans := none, out := false, dataDue := false, sdata := none } else p }
/-- A raw write to a tracker or context row becomes the row's content: of a context the working registers and the two agent
sets, the places of the rest not being published (assumption 13). -/
def liveFrom (rid arr row : Nat) (ws : List Word) (x : Tile) : Tile :=
  let v := (List.range 8).foldl (fun n k => n + (ws.getD k 0).toNat * 2 ^ (64 * k)) 0
  if arr = 5 then entryFrom (rid + 1) (2 * row + 1) (v / 2 ^ 192 % 2 ^ 192) (entryFrom rid (2 * row) (v % 2 ^ 192) x)
  else
    match entry? x (rowEntry 6 row) with
    | none => x
    | some e =>
      let e := if row % 2 = 0 then
          withSnoops (ws.drop 4) { e with reg0 := ws.getD 0 0, reg1 := ws.getD 1 0, reg2 := ws.getD 2 0, reg3 := ws.getD 3 0 }
        else withAnswers ws e
      { x with ents := Tab.put x.ents (rowEntry 6 row) e }
/-- A row takes content with check bits to match: the entries take what of it is theirs, and the row keeps the words (R317). -/
def settleRow (rid t arr row : Nat) (ws : List Word) (planted : Bool) (x : Tile) : Tile :=
  let x := liveFrom rid arr row ws { x with overlay := Tab.drop x.overlay (rowKey arr t row) }
  { x with overlay := Tab.put x.overlay (rowKey arr t row) ⟨ws, 0, 0, planted, entryWords x arr row⟩ }
/-- A PLAN_V of 1 in the raw words of entry n, a waiting member that has no plan, gives it the plan that R187 makes of the state
the directory has (assumption 13). -/
def planFrom (c : Ch) (t : TileId) (n : Nat) (planV : Bool) (s : State) : State :=
  match entry? (tile s c t) n with
  | none => s
  | some e =>
    if planV && e.plan.isNone && e.inChain && !e.head then
      modEntry c t n (fun e => { e with plan := some (planOf s c e (lookup (ch s c) e.laddr).dir) }) s
    else s
/-- The same in a channel, with order numbers for the entries it opens. -/
def settleOver (c : Ch) (t : TileId) (arr row : Nat) (ws : List Word) (planted : Bool) (s : State) : State :=
  if arr = 5 then
    let s := modTile c t (settleRow (ch s c).nextRid t arr row ws planted) (modCh c (fun k => { k with nextRid := k.nextRid + 2 }) s)
    planFrom c t (2 * row + 1) ((ws.getD 5 0).getLsbD 31) (planFrom c t (2 * row) ((ws.getD 2 0).getLsbD 31) s)
  else modTile c t (settleRow (ch s c).nextRid t arr row ws planted) s

/-- The rows of the tracker (array 5) and context (array 6) that hold entry n (Table 21-7). -/
def entryRows (n : Nat) : List (Nat × Nat) :=
  [(5, n / 2), (6, 160 * (n % 2) + 2 * (n / 2)), (6, 160 * (n % 2) + 2 * (n / 2) + 1)]
/-- What a read of a tracker or context row finds: only a raw write leaves a row whose check bits do not match. -/
def overOutcome (x : Tile) (t arr row : Nat) : Outcome3 :=
  match overOf x t arr row with
  | none => .good
  | some o => decodeBlock o.row o.col
/-- The words of a block as a read corrects them (R308). -/
def mendWords (ws : List Word) (word : Option Nat) (bit : Nat) : List Word :=
  match word with
  | none => ws
  | some i => ws.set i (ws.getD i 0 ^^^ (1#64 <<< bit))
/-- A read of a tracker or context row (Table 12-3), or what a write of it has read (R307): a bad bit is mended, an
uncorrectable block is rebuilt from the shadow. -/
def readOver (c : Ch) (t : TileId) (arr row : Nat) (s : State) : State :=
  match overOf (tile s c t) t arr row with
  | none =>
    match mendedOver (tile s c t) t arr row with
    | none => s
    | some o => correctable c 3 (some t) o.planted (modTile c t (fun x => { x with overlay := Tab.drop x.overlay (rowKey arr t row) }) s)
  | some o =>
    match decodeBlock o.row o.col with
    | .good => s
    | .mended w b => correctable c 3 (some t) o.planted (settleOver c t arr row (mendWords o.words w b) false s)
    | .bad =>
      if asked (ch s c) (.rebuild t (arr == 6) row) then s
      else askAction c (.rebuild t (arr == 6) row) o.planted (uncorrectable c 3 t row 5 0 o.planted s)
/-- The rows that a channel's entries have written since an error was planted in them, as a tick ends: the write has found it
(R307). -/
def rowsTick (c : Ch) (s : State) : State :=
  forEach allTiles (fun t s =>
    let x := tile s c t
    let stale (o : Nat × Over) : Bool :=
      decodeBlock o.2.row o.2.col != .good && entryWords x (o.1 / 8192 / 16) (o.1 % 8192) != o.2.base
    forEach (x.overlay.filter stale) (fun o s => readOver c t (o.1 / 8192 / 16) (o.1 % 8192) s) s) s
/-- A row of entry n is uncorrectable. -/
def rowsLost (x : Tile) (t n : Nat) : Bool := (entryRows n).any fun r => overOutcome x t r.1 r.2 == .bad

end Sys2Proof.Machine
end

