-- ==== Sys2Proof/Machine/Flow.lean ====
section
/-! DEFINITION. Flows (06, 07, 08): the flow store and its fetches (R219 to R221), what a flow has to do next (Table 6-4, R161,
R165, R169 to R173, R236), and what each microstep does for it (Table 8-5). Operand encodings are not published (R218): a
microstep of a class does the work of that class that is next due, and commits without effect where none is due
(assumption 9). -/

namespace Sys2Proof.Machine

-- ## Engines

/-- The flow an engine runs. -/
def engineRun (x : Tile) (odd : Bool) : Option Nat := if odd then x.run1 else x.run0
/-- Set the flow an engine runs. -/
def setRun (odd : Bool) (v : Option Nat) (x : Tile) : Tile := if odd then { x with run1 := v } else { x with run0 := v }
/-- EN_CTL.DISABLE as applied (R225): naming both engines of a tile disables the odd one. -/
def engineDisabled (s : State) (c : Ch) (t : TileId) (odd : Bool) : Bool :=
  let m := cfC s c 7 0x40 0 32
  if odd then m.testBit (2 * t + 1) else m.testBit (2 * t) && !m.testBit (2 * t + 1)
/-- EN_ST.UP: the engine runs flows. -/
def engineUp (s : State) (c : Ch) (t : TileId) (odd : Bool) : Bool :=
  let x := tile s c t
  !(if odd then x.fail1 || x.fault1 else x.fail0 || x.fault0) && !engineDisabled s c t odd
/-- ENG_HOLD as applied (Table 8-15). -/
def engHold (s : State) (c : Ch) : Nat := max 0x40 (cfC s c 7 0x50 16 12)
/-- BANK_HOLD as applied. -/
def bankHold (s : State) (c : Ch) : Nat := atLeast1 (cfC s c 7 0x50 4 8)
/-- A channel whose engines work: it serves and is not fenced for a cause (R58). -/
def enginesRun (s : State) (c : Ch) : Bool := serving s c && (ch s c).cause == .none

-- ## The flow store (R220, R221)

/-- A fetch from a row of the flow store: a bad bit is mended, a bad block is taken from the other copy, two bad copies fence
the channel. -/
def fetchRow (c : Ch) (row : Nat) (s : State) : State :=
  let k0 := rowKey 7 0 row
  let k1 := rowKey 8 0 row
  let planted := rowPlanted (ch s c) k0
  match rowOutcome (ch s c) k0 with
  | .good => s
  | .mended w b => ev c 0x33 (some 0) {} (correctable c 4 none planted (modCh c (mendRow k0 w b) s))
  | .bad =>
    let s := uncorrectable c 4 0 row 6 0 planted s
    match rowOutcome (ch s c) k1 with
    | .bad =>
      let p1 := rowPlanted (ch s c) k1
      fenceAs c .flowStore (planted || p1) (uncorrectable c 4 0 row 6 0 p1 s)
    | o =>
      let s := match o with
        | .mended w b => correctable c 4 none (rowPlanted (ch s c) k1) (modCh c (mendRow k1 w b) s)
        | _ => s
      let ws := rowWords (ch s c) 8 0 row
      secondFault c planted (ev c 0x33 (some 1) {}
        (modCh c (fun k => (List.range 8).foldl (fun k w => putMem 7 0 row w (ws.getD w 0) k) k) s))
/-- The microword at an address, as a fetch after repair reads it. -/
def microword (k : Channel) (a : Nat) : Word := memWord k 7 0 (a / 8) (a % 8)
/-- CLASS (Table 8-4). -/
def wordClass (w : Word) : Nat := bits w 0 4
/-- TARGET. -/
def wordTarget (w : Word) : Nat := bits w 8 13
/-- The word is illegal (R219). -/
def wordIllegal (w : Word) : Bool := decide (0xB ≤ wordClass w) || bits w 56 8 != 0
/-- The vector of an entry's flow (Table 8-6). -/
def vectorOf (e : Entry) : Nat :=
  match e.op, e.work with
  | some op, _ => if e.absorbedBy.isSome then 0x10 else op.code.toNat
  | none, .eviction => 0x11
  | none, .maint _ => 0x12
  | none, .reclaim => 0x13
  | none, .recovery => 0x14
  | none, _ => 0x12

-- ## What is next due

/-- The work a flow has next. -/
inductive Due
  | dirRd | demote | snoop | place | merge | lcRead | perform | ntDrop | memReq | dirWr | verdict | data | fin | wait
  deriving DecidableEq, Repr

/-- Snoops not yet sent (or due again). -/
def todo (e : Entry) : List Snp := e.snoops.filter fun p => p.ans.isNone && !p.out
/-- An answer or its SDATA is outstanding. -/
def outstanding (e : Entry) : Bool := e.snoops.any fun p => p.out || p.dataDue
/-- The WDATA of a write absorbed by entry n has not arrived. -/
def absorbing (k : Channel) (t : TileId) (n : Nat) : Bool := k.wexp.any fun w => w.use == .absorbed t n
/-- Every snoop is answered with its data, and every absorbed write is placed (R154, R158, R246). -/
def settled (k : Channel) (t : TileId) (n : Nat) (e : Entry) : Bool :=
  !e.snoops.any (·.ans.isNone) && !outstanding e && !absorbing k t n && (e.pend == 0 || !e.snoops.any (·.wrote))

/-- The local copy a partial write of line l merges with: received data, else the line cache (R171). -/
def localCopy (k : Channel) (e : Entry) (l : LAddr) : Bool := (e.laddr == l && e.rdata.isSome) || (lcFind k l).isSome
/-- A memory request of the entry is unanswered. -/
def memOut (e : Entry) : Bool := e.mem.isSome && e.memAns.isNone

/-- What absorbed partial writes still need (R171). -/
def dueAbsorbed (k : Channel) (e : Entry) : Due :=
  match e.absPtl with
  | [] => .wait
  | x :: _ => if localCopy k e x.1 || e.memAns.isSome then .merge else if memOut e then .wait else .memReq

/-- The next work of a read (R161, R165). -/
def dueRead (k : Channel) (e : Entry) : Due :=
  if !e.updated then .dirWr
  else if !e.ddIssued && e.rdata.isNone && e.source == .lineCache && (lcFind k e.laddr).isSome then .lcRead
  else if !e.ddIssued && e.rdata.isNone && e.mem.isNone then .memReq
  else if !e.verdict then .verdict
  else if e.sentData || (e.ddIssued && e.rdata.isNone) then .fin
  else if e.rdata.isSome then .data
  else .wait

/-- The next work of a write (R169 to R171). -/
def dueWrite (k : Channel) (ptl : Bool) (e : Entry) : Due :=
  if !e.updated then .dirWr
  else if !e.verdict then .verdict
  else if e.placed then .fin
  else if e.opMissing then .place
  else if e.operand.isNone then .wait
  else if !ptl then .place
  else if localCopy k e e.laddr then .merge
  else if memOut e then .wait
  else .memReq

/-- The next work of an atomic (R172, R173, R88). -/
def dueAtomic (k : Channel) (e : Entry) : Due :=
  if !e.updated then .dirWr
  else if e.opMissing then (if e.verdict then .fin else .verdict)
  else if e.operand.isNone then .wait
  else if e.value.isNone then
    if e.atMemory then (if e.mem.isNone then .memReq else .wait)
    else if e.rdata.isSome then .perform
    else if (lcFind k e.laddr).isSome then .lcRead
    else if e.mem.isNone then .memReq
    else .wait
  else if !e.verdict then .verdict
  else if !e.sentData then .data
  else .fin

/-- The flow has sent the verdict of a read whose data it has still to send (R79, R161). -/
def owesData (e : Entry) : Bool :=
  e.verdict && !e.sentData && !e.ddIssued && !e.pool && (match e.op with | some o => o.isRead | none => false)
/-- The read that owed its data has timed out: the data is the synthesized MEM_FILL (Table 10-4). -/
def fillLostFor (e : Entry) : Bool := owesData e && e.mem.isNone && e.memAns.isSome

/-- The next work of an aborted request flow (R236): its data is placed, by a merge at memory where the region's policy has it
so (Table 9-2), and a flow that has read no directory state writes none; the sequence that follows a memory timeout begins at
its step 2. -/
def dueAbort (k : Channel) (t : TileId) (n : Nat) (e : Entry) : Due :=
  if outstanding e || absorbing k t n then .wait
  else if !e.toPlace.isEmpty then .place
  else if !e.absPtl.isEmpty then dueAbsorbed k e
  else if e.fetched && !e.updated then .dirWr
  else if !e.verdict && e.op != some .evict then .verdict
  else if fillLostFor e then .data
  else
    match e.op with
    | some .wrFull => if (e.operand.isSome || e.opMissing) && !e.placed then .place else .fin
    | some .wrPtl =>
      if e.placed || (e.operand.isNone && !e.opMissing) then .fin
      else if e.opMissing then .place
      else if localCopy k e e.laddr then .merge else if memOut e then .wait else .memReq
    | _ => .fin

/-- The entry holds a line for the retirement of its page: the data it receives is discarded (Table 12-6). -/
def retiring (k : Channel) (e : Entry) : Bool :=
  match e.work with
  | .maint j => k.jobs.any fun x => x.id == j && (match x.kind with | .retirePage _ => true | _ => false)
  | _ => false

/-- The absorbing flow has placed what it absorbed (R185). -/
def absorbedPlaced (k : Channel) (t : TileId) (m : Nat) (e : Entry) : Bool :=
  !(k.wexp.any fun w => w.rid == e.rid) &&
    match entry? k.tiles[t] m with
    | none => true
    | some a => a.toPlace.isEmpty && a.absPtl.isEmpty && a.pend == 0
/-- The next work of entry n. An absorbed write's flow waits for its data to be placed, and ends (R185). -/
def due (s : State) (c : Ch) (t : TileId) (n : Nat) (e : Entry) : Due :=
  let k := ch s c
  if e.aborted then dueAbort k t n e
  else if let some m := e.absorbedBy then (if absorbedPlaced k t m e then .fin else .wait)
  else if !e.fetched then .dirRd
  else if !e.toPlace.isEmpty || (retiring k e && !e.absPtl.isEmpty) then .place
  else if !e.absPtl.isEmpty && dueAbsorbed k e != .wait then dueAbsorbed k e
  else if e.demote then .demote
  else if !(todo e).isEmpty && (e.work != .eviction || decide ((e.snoops.filter (·.out)).length < evictSnpMax s c)) then
    .snoop
  else if !settled k t n e || !e.absPtl.isEmpty then .wait
  else
    match e.op with
    | none => (match e.work with | .maint _ => if e.updated then .fin else .dirWr | _ => .fin)
    | some .rdShd | some .rdOwn | some .rdAny | some .rdCur => dueRead k e
    | some .upgrade => if !e.updated then .dirWr else if !e.verdict then .verdict else .fin
    | some .invAll =>
      if ntOf e.subtype && !e.placed then .ntDrop else if !e.updated then .dirWr else if !e.verdict then .verdict else .fin
    | some .wrFull => dueWrite k false e
    | some .wrPtl => dueWrite k true e
    | some .atomic => dueAtomic k e
    | some .evict => if !e.updated then .dirWr else .fin
    | some .rdSpec | some .biConflict => .fin

-- ## A microstep (R217, R218, R222)

/-- The flow an engine can step: it runs one, has not reached its hold limit, and the engine works (R235). -/
def stepReady (s : State) (c : Ch) (t : TileId) (odd : Bool) : Option (Nat × Entry) :=
  if !enginesRun s c || !engineUp s c t odd then none
  else match engineRun (tile s c t) odd with
    | none => none
    | some n => (entry? (tile s c t) n).bind fun e => if e.runLen < engHold s c && !e.ended then some (n, e) else none

/-- Commit (R222): PROGRESS advances, and the flow goes on at the next microword; a step of a recovery is checkpointed (R329). A
flow whose RETRY has released its entry has none to advance (R143); `gen` is the generation its entry had. -/
def commit (c : Ch) (t : TileId) (n : Nat) (gen : BitVec 4) (e : Entry) (s : State) : State :=
  let s := if e.work == .recovery then biStep c s else s
  ev c 0x2E none (occE t e) (if genOf (tile s c t) n != gen then s else modEntry c t n (fun e => { e with
    progress := e.progress + 1, resume := e.resume + 1, runLen := e.runLen + 1, readyAt := s.tick, watch := 0 }) s)

-- ## Bank accesses (R231, R232)

/-- A flow raises its request at a bank port (R215, R231). -/
def bankAsk (c : Ch) (t : TileId) (b : Bank) (n : Nat) (e : Entry) (s : State) : State :=
  if (grantOf (tile s c t) b).any (·.ent == n) then s else askPort c t b (.flow n) (clsOf e) e.age s
/-- The sets of a line's accesses at a bank: the two of the snoop filter that a lookup reads as one (R18), or the line cache's. -/
def bankSet (b : Bank) (l : LAddr) : Nat :=
  match b with | .sf => cirrusSet l * 2048 + stratusSet l | .lc => lcSet l

/-- An access by entry n through a bank's port (R232): it needs the grant, with accesses left and to the set of its first one; else
the request is raised, a grant for another set being released, and the microstep does not commit. -/
def withBank (c : Ch) (t : TileId) (b : Bank) (n : Nat) (e : Entry) (l : LAddr) (f : State → State × Bool) (s : State) :
    State × Bool :=
  match grantOf (tile s c t) b with
  | none => (bankAsk c t b n e s, false)
  | some g =>
    if g.ent != n then (bankAsk c t b n e s, false)
    else if bankHold s c ≤ g.used then (s, false)
    else if g.set.any (· != bankSet b l) then (bankAsk c t b n e (modTile c t (setGrant b none) s), false)
    else match f s with
      | (s, true) => (modTile c t (fun x => if (grantOf x b).any (·.ent == n) then
          setGrant b (some ⟨n, some (bankSet b l), g.used + 1⟩) x else x) s, true)
      | (s, false) => (s, false)

-- ## Directory accesses

/-- DIR_RD: the read that starts the flow, or reads its set again. A flow that was handed on for a same-line collision reads
after the older request has updated the directory (R101). -/
def actDirRd (c : Ch) (t : TileId) (n : Nat) (e : Entry) (s : State) : State × Bool :=
  withBank c t .sf n e e.laddr (fun s =>
    if underRecovery (ch s c) e.laddr || collision (ch s c) e.laddr s.pclk then (s, false)
    else
      let s := mendRows c 0 t (dirRows e.laddr) s
      let lk := lookup (ch s c) e.laddr
      if lk.bad then (dirError c e.laddr (modEntry c t n (fun e => { e with readAt := some e.resume }) s), false)
      else
        let s := modCh c (touch e.laddr) s
        let s := if e.fetched then modEntry c t n (fun e => { e with stamp := setStamp (tile s c t) e.laddr }) s
          else startFlow c t n lk.dir none s
        (modEntry c t n (fun e => { e with readAt := some e.resume }) s, true)) s

/-- The snoops of a victim (Table 5-4). -/
def victimSnoops (k : Channel) (c t set : Nat) (v : SlotV) : List Snp :=
  match v with
  | .cirrus tag d _ _ => (snoopable k d).map fun a => newSnp (cirrusLine c t set tag) d (a, .inv)
  | .stratus tag o m _ _ =>
    if caches k o then ((List.range 64).filter m.getLsbD).map fun j =>
      newSnp (stratusLine c t set tag j) (.region o) (o, .inv)
    else []
  | _ => []
/-- The qualifier of an eviction (event 0x15). -/
def victimKind : SlotV → Nat
  | .stratus _ _ _ _ _ => 2
  | v => if v.isWide then 1 else 0

/-- The state the entry of a victim records (R154, R185). -/
def SlotV.dir : SlotV → Dir
  | .cirrus _ d _ _ => d
  | .stratus _ o _ _ _ => .region o
  | _ => .i
/-- Evict way w of a set with entry m (R142, R144): the slot is made invalid, its agents are to be snooped, and every line that it
covered is held. -/
def evictWay (c : Ch) (t : TileId) (set w m : Nat) (s : State) : State :=
  let v := slotAt (ch s c) t set w
  let snps := victimSnoops (ch s c) c t set v
  let l := (slotLines c t set v).headD 0
  let e := { Entry.blank .evict .eviction l (ch s c).nextRid (ch s c).age (deadlineOf s c clsEvict) with
    fetched := true, found := v.dir, region := v.isStratus, snoops := snps, readyAt := s.tick }
  let s := openEntry c t m e s
  let s := ev c 0x15 (some (victimKind v)) (occTile t) (modCh c (clearWay t set w) s)
  settleDead c t m s

/-- The tile runs EVICT_MAX evictions (R143). -/
def evictionsFull (s : State) (c : Ch) (t : TileId) : Bool := decide (evictMax s c ≤ evictUsed (tile s c t))
/-- No victim can be had in a set: every entry is pinned, or EVICT_MAX evictions run (R143). -/
def evictBarred (s : State) (c : Ch) (t : TileId) (set : Nat) (inst : InstId) (own : LAddr) : Bool :=
  evictionsFull s c t || (chooseVictim s c t set inst own).isNone
/-- Start an eviction in a set with no invalid way (R141, R142), if one can be started. -/
def startEvict (c : Ch) (t : TileId) (set : Nat) (inst : InstId) (own : LAddr) (s : State) : Option State :=
  if evictionsFull s c t || decide (evictMax s c ≤ evictTaken (tile s c t)) then none
  else
    match chooseVictim s c t set inst own, freeEntry (tile s c t) with
    | some (w, quota, clear), some m =>
      let s := modCh c (clearRefs t set clear) s
      let s := modTile c t (fun x => { x with cursor := x.cursor + 1 }) s
      let s := if quota then ev c 0x18 none (occTile t) s else s
      some (evictWay c t set w m s)
    | _, _ => none

/-- No snoop of the flow has been sent (R143). -/
def noneSent (e : Entry) : Bool := e.snoops.all fun p => p.tries == 0

/-- RETRY from a flow (R143, R190): the request releases its entry without a directory change, and then the RETRY leaves. Of a
write whose data has not come in time the record follows now (R89). -/
def retryFlow (c : Ch) (t : TileId) (n : Nat) (e : Entry) (s : State) : State :=
  let o := occE t e
  let s := dropEntry c t n e (discardAfter c t n s)
  if e.pool then paRetryAt c e.rid 2 o s
  else
    let (s, anchor) := retryAnchor c e.agent e.laddr e.inst s
    let h := { mkHdr Verdict.retry.code e.agent e.tag e.laddr e.inst (endSub 2 e.ddIssued) with anchor := anchor }
    let s := modCh c (fun k => sendOut t .vrs (mkPkt h 0 2 (some e.rid)) (useW e.rid .drop k)) s
    let s := retryEvent c 2 anchor o s
    let s := if e.ddIssued then ev c 0x0B (some 2) o s else s
    flushAcks c (if e.opMissing && e.op != some .atomic then dataRecord c e.laddr e.agent e.inst e.tag s else s)

/-- The flow of a request in a full set is answered RETRY (R143): it has sent no snoop, and every write it has absorbed is placed
(R185). -/
def retryMet (s : State) (c : Ch) (t : TileId) (n : Nat) (e : Entry) : Bool :=
  noneSent e && e.kind == .request && e.op != some .evict && e.pend == 0 && !absorbing (ch s c) t n &&
    evictBarred s c t (cirrusSet e.laddr) e.inst e.laddr

/-- What a full set comes to. -/
inductive Full | evicts (s : State) | retries (s : State) | waits
/-- A full set (R143, R157): evict; else RETRY while nothing has been sent; else wait. -/
def fullSet (c : Ch) (t : TileId) (n : Nat) (e : Entry) (s : State) : Full :=
  match startEvict c t (cirrusSet e.laddr) e.inst e.laddr s with
  | some s => .evicts s
  | none => if retryMet s c t n e then .retries (retryFlow c t n e s) else .waits

/-- The update count is taken again after the flow's own update. -/
def restamp (c : Ch) (t : TileId) (n : Nat) (s : State) : State :=
  modEntry c t n (fun e => { e with stamp := setStamp (tile s c t) e.laddr }) s

/-- The demotion of a line (R137). -/
def actDemote (c : Ch) (t : TileId) (n way : Nat) (e : Entry) (s : State) : State × Bool :=
  let go (w : Nat) (s : State) : State × Bool :=
    let o := (lookup (ch s c) e.laddr).owner
    let s := modCh c (demoteTo e.laddr w) s
    let s := modTile c t (listDemotion s c e.laddr) s
    let s := modEntry c t n (fun e => { e with demote := false, found := .x o }) s
    (restamp c t n (ev c 0x13 none (occE t e) s), true)
  match freeWay (ch s c) t (cirrusSet e.laddr) way with
  | some w => go w s
  | none =>
    match fullSet c t n e s with
    | .evicts s => (match freeWay (ch s c) t (cirrusSet e.laddr) way with | some w => go w s | none => (s, false))
    | .retries s => (s, true)
    | .waits => (s, false)

/-- The directory an aborted flow writes (R236): the state found without every agent that answered that it holds no copy. -/
def abortDir (e : Entry) : Dir := afterAnswers e.found e.snoops

/-- The grant and directory a flow ends with; a maintenance step leaves I (R406). -/
def flowEnd (s : State) (c : Ch) (e : Entry) : BitVec 3 × Dir :=
  if e.aborted then (grantI, abortDir e)
  else match e.op with
    | none => (grantI, .i)
    | some op => outcome (ch s c) e.terms (growsFor (ch s c) e.laddr e.found e.agent)
      op e.subtype e.agent e.found e.snoops (mayWide s c e.laddr) e.xfer

/-- After the final update: the grant is kept, and a forwarder that had no copy gives way to the cheaper of the line cache and
memory (R166). -/
def finishDir (c : Ch) (t : TileId) (n : Nat) (e : Entry) (g : BitVec 3) (s : State) : State :=
  let src := if e.source == .forwarder && e.rdata.isNone then
    (if lcBefore e.terms.lcLow (lcHit (ch s c) e.laddr) then .lineCache else .memory) else e.source
  let s := modEntry c t n (fun e => { e with updated := true, grant := g, source := src }) s
  let s := if g == grantF then ev c 0x1C none (occE t e) s else s
  let s := if g == grantM then ev c 0x1D none (occE t e) s else s
  restamp c t n s

/-- The first waiter after entry n is planned for another state than d (R188). -/
def offAfter (x : Tile) (n : Nat) (e : Entry) (d : Dir) : Bool :=
  (((chain x e.laddr).dropWhile fun y => y.1 != n).drop 1).head?.any fun y => y.2.plan.any (·.before != d)
/-- The final directory update of a flow (R158). -/
def actFinal (c : Ch) (t : TileId) (n way : Nat) (e : Entry) (s : State) : State × Bool :=
  let r := flowEnd s c e
  let put (p : Place) (s : State) : State × Bool :=
    let before := (lookup (ch s c) e.laddr).dir
    let s := if before == r.2 then s
      else modCh c (applyDir e.laddr r.2 p e.agent e.inst) (dirEvents c e.laddr before r.2 p e.agent e.inst s)
    let s := finishDir c t n e r.1 s
    (if offAfter (tile s c t) n e (lookup (ch s c) e.laddr).dir then discardAfter c t n s else s, true)
  match placeFor s c e.laddr r.2 e.agent way with
  | .full =>
    (match fullSet c t n e s with
    | .evicts s =>
      (match placeFor s c e.laddr r.2 e.agent way with
      | .full => (s, false)
      | p => put p s)
    | .retries s => (s, true)
    | .waits => (s, false))
  | p => put p s

/-- DIR_WR (R224): the blocks it writes are read and checked first (R307), and it waits for a landing clear-sky update (R180).
Where the set has been updated since the flow read it, it commits as a branch back to the read. -/
def actDirWr (c : Ch) (t : TileId) (way n : Nat) (e : Entry) (s : State) : State × Bool :=
  match due s c t n e with
  | .demote | .dirWr =>
    withBank c t .sf n e e.laddr (fun s =>
      let s := mendRows c 0 t (dirRows e.laddr) s
      if landingOn s c e.laddr || recoveryAsked (ch s c) e.laddr then (s, false)
      else if (lookup (ch s c) e.laddr).bad then (dirError c e.laddr s, false)
      else match e.readAt.filter fun _ => setStamp (tile s c t) e.laddr != e.stamp with
        | some r => (modEntry c t n (fun e => { e with resume := r - 1 }) (ev c 0x2F none (occE t e) s), true)
        | none => if due s c t n e == .demote then actDemote c t n way e s else actFinal c t n way e s) s
  | _ => (s, true)

-- ## Line-cache accesses

/-- POISON of a merged line (R316). -/
def mergePoison (old new : Bool) (m : Word) : Bool := if m = ~~~0 then new else old || new
/-- Place the next received line (R163, R245); data placed in the line cache by an absorbed write is read from there (R162).
Data that went both to the line cache and to memory (write-through) is sent with SRC 0b01: the spec ranks neither (DESIGN
CHOICE, assumption 77). SDATA that the flow places in the line cache is sent with SRC 0b10, though 0b00 fits it too (DESIGN CHOICE,
assumption 99). -/
def placeNext (c : Ch) (t : TileId) (n : Nat) (e : Entry) (s : State) : State :=
  match e.toPlace with
  | [] => s
  | (l, d, p, i) :: r =>
    let (s, wr) := placeFull c (occE t e) l d p s
    let s := if wr then sendMemWr c t n l d p i s else s
    notePlaced c t n <| modEntry c t n (fun e => { e with toPlace := r, rsrc := if e.rsrc == 1 && !wr then 0 else e.rsrc }) s

/-- Place a write's own data, or the poisoned line of data that never came (R88, R169). -/
def placeOwn (c : Ch) (t : TileId) (n : Nat) (e : Entry) (s : State) : State :=
  let s := match e.operand with
    | some (d, _, p) => placeFor1 c (occE t e) t n e.laddr d p e.inst s
    | none => placeLost c t n e.laddr e.inst s
  notePlaced c t n (modEntry c t n (fun e => { e with placed := true }) s)

/-- The current value a merge takes: received data of the flow's line, the answer of a read-modify-write, or the line
cache. -/
def mergeBase (c : Ch) (e : Entry) (l : LAddr) (s : State) : State × Option (Line × Bool) :=
  if e.laddr == l && e.rdata.isSome then (s, e.rdata) else lcRead c (occE (home e.laddr) e) l s

/-- Merge the first absorbed partial write (R154, R171). A line merged at memory is taken as it comes back. -/
def mergeAbsorbed (c : Ch) (t : TileId) (n : Nat) (e : Entry) (s : State) : State :=
  match e.absPtl with
  | [] => s
  | (l, d, m, p, i) :: r =>
    match e.memAns with
    | some v =>
      notePlaced c t n <| takeSdata c t n <| modEntry c t n (fun e => { e with
        absPtl := r, memAns := none, mem := none, rdata := if e.laddr == l then some v else e.rdata, rsrc := 1 }) s
    | none =>
      match mergeBase c e l s with
      | (s, none) => s
      | (s, some (o, q)) =>
        let v := mergeLine o d m
        let b := mergePoison q p m
        takeSdata c t n <| modEntry c t n (fun e => { e with
          absPtl := r, merging := true, toPlace := e.toPlace ++ [(l, v, b, i)]
          rdata := if e.laddr == l then some (v, b) else e.rdata, rsrc := 1 }) s

/-- Merge a WR_PTL over the line's current value (R171, R316): the merged line is to be placed. -/
def mergeOwn (c : Ch) (t : TileId) (n : Nat) (e : Entry) (s : State) : State :=
  match e.operand, mergeBase c e e.laddr s with
  | some (d, m, p), (s, some (o, q)) =>
    modEntry c t n (fun e => { e with
      placed := true, merging := true, toPlace := [(e.laddr, mergeLine o d m, mergePoison q p m, e.inst)] }) s
  | _, (s, _) => s

/-- Perform an atomic at home (R173, R174): the old value, and the result to be placed. The spec speaks of a poisoned current
value only: a poisoned operand is used like any other, and its poison goes no further (DESIGN CHOICE, assumption 75). -/
def performAtomic (c : Ch) (t : TileId) (n : Nat) (e : Entry) (s : State) : State :=
  match e.operand, e.rdata with
  | some (arg, _, _), some (old, p) =>
    let r := atomicResult (atomOp e.subtype) (atomQw e.subtype) arg old
    modEntry c t n (fun e => { e with
      value := some (r.1, p), rsrc := 3, toPlace := if p then e.toPlace else e.toPlace ++ [(e.laddr, r.2, false, e.inst)] }) s
  | _, _ => s

/-- NT of an INV_ALL: the line-cache copy is dropped, dirty data going to memory first (Table 3-4). -/
def dropCopy (c : Ch) (t : TileId) (n : Nat) (x : Entry) (s : State) : State :=
  let l := x.laddr
  match lcFind (ch s c) l with
  | none => s
  | some w =>
    let s := readFrame c t (lcSet l) w s
    let e := tagAt (ch s c) t (lcSet l) w
    let s := if e.valid && e.dirty then sendMemWr c t n l (frameData (ch s c) t (lcSet l) w) e.poison x.inst s else s
    let s := if e.valid && e.pf then ev c 0x39 (some 2) (occE t x) s else s
    discardPlans c (·.laddr == l) (modCh c (putTag t (lcSet l) w TagE.none) s)

/-- LC_ACC: what the flow needs of the line cache. -/
def actLcAcc (c : Ch) (t : TileId) (n : Nat) (e : Entry) (s : State) : State × Bool :=
  let l := match e.toPlace, e.absPtl with | x :: _, _ => x.1 | [], x :: _ => x.1 | [], [] => e.laddr
  let access (f : State → State) : State × Bool :=
    withBank c t .lc n e l (fun s => (replan c t (f (readTags c t (lcSet l) s)), true)) s
  match due s c t n e with
  | .place => access fun s =>
      if retiring (ch s c) e then notePlaced c t n (takeSdata c t n (modEntry c t n (fun e => { e with toPlace := [], absPtl := [] }) s))
      else if e.toPlace.isEmpty then placeOwn c t n e s else placeNext c t n e s
  | .merge =>
    if !e.merging && mergeBusy (tile s c t) n && e.memAns.isNone then (ev c 0x4E none (occE t e) s, false)
    else access fun s => if e.absPtl.isEmpty then mergeOwn c t n e s else mergeAbsorbed c t n e s
  | .lcRead => access fun s =>
      match lcRead c (occE t e) e.laddr s with
      | (s, some v) => modEntry c t n (fun e => { e with rdata := some v, rsrc := 0 }) s
      | (s, none) => modEntry c t n (fun e => { e with source := .memory }) s
  | .perform => access (performAtomic c t n e)
  | .ntDrop => access fun s => modEntry c t n (fun e => { e with placed := true }) (dropCopy c t n e s)
  | _ => (s, true)

-- ## Snoops and run-ahead plans

/-- STORM_SHARE as applied (Table 7-8). -/
def stormShare (s : State) (c : Ch) : Nat := atLeast1 (cfC s c 5 0x100 32 4)
/-- An eviction snoop is held back (R204). -/
def stormHeld (s : State) (c : Ch) : Bool :=
  (ch s c).sno.any (·.kind == .flow) && decide (stormShare s c ≤ ((ch s c).sno16.filter id).length)

/-- SNOOP: the next snoop of the flow goes to its ring in ascending agent order (R157). -/
def actSnoop (c : Ch) (t : TileId) (n : Nat) (e : Entry) (s : State) : State × Bool :=
  match due s c t n e with
  | .snoop =>
    (match todo e with
    | [] => (s, true)
    | p :: _ =>
      let kind : SnpKind := match e.work with | .eviction => .storm | .recovery => .recovery | _ => .flow
      if !sdataFree (ch s c) then (s, false)
      else if kind == .storm && stormHeld s c then (ev c 0x27 none (occTile t) s, false)
      else
        let s := modEntry c t n (markSent p.agent p.laddr s.tick) s
        let s := modCh c (fun k => sendOut t .sno (snpPkt k t n p e.inst kind 0 2) k) s
        (makePlans c t n s, true))
  | _ => (s, true)

-- ## Memory requests, verdicts and data

/-- MEMREQ: MEM_RD, MEM_WR_PTL or MEM_ATOM, with its MRS landing place (R30); a merge at memory uses no merge buffer (R315). One
that reserves a frame for its fill does so through the line cache's port (R232, R249). -/
def actMemreq (c : Ch) (t : TileId) (n : Nat) (e : Entry) (s : State) : State × Bool :=
  match due s c t n e with
  | .memReq =>
    let l := match e.absPtl with | x :: _ => x.1 | [] => e.laddr
    let s := findTags c l s
    if !mrsFree (ch s c) || (ch s c).cause != .none then (s, false)
    else
      let atom := e.absPtl.isEmpty && e.op == some .atomic && e.atMemory
      let ptl := !e.absPtl.isEmpty || e.op == some .wrPtl
      let send (s : State) : State :=
        let s := if ptl || atom then modCh c (spoilFills fun _ m => m.laddr == l) s else s
        let s := if !atom && placesWb s c l && (lcFind (ch s c) l).isNone then
            replan c t (reserveFill c (occE t e) l false (homeTagNow (ch s c) t n) s) else s
        let sent (k : MemKind) (s : State) : State :=
          grantMerge c t (modEntry c t n (fun e => { e with
            mem := some (k, s.tick), memIn := false, memAns := none, merging := e.merging && k != .wrPtl }) s)
        match e.absPtl, e.operand with
        | (_, d, m, p, i) :: _, _ => sent .wrPtl (sendMrq c t n 0x3B l d m p i 0 s)
        | [], some (d, m, p) =>
          if ptl then sent .wrPtl (sendMrq c t n 0x3B l d m p e.inst 0 s)
          else if atom then sent .atom (sendMrq c t n 0x3C l d (~~~0) false e.inst (e.subtype &&& 0x3F) s)
          else sent .rd (sendMrq c t n 0x38 l 0 0 false e.inst 0 s)
        | [], none => sent .rd (sendMrq c t n 0x38 l 0 0 false e.inst 0 s)
      if !atom && placesWb s c l && (lcFind (ch s c) l).isNone then withBank c t .lc n e l (fun s => (send s, true)) s
      else (send s, true)
  | _ => (s, true)

/-- The verdict a flow sends (R161, R88, R236), with its SUBTYPE. -/
def flowVerdict (e : Entry) : Verdict × BitVec 7 :=
  if e.aborted then (.err, endSub errTimeout e.ddIssued)
  else if e.opMissing then (.err, endSub errProtocol false)
  else match e.op with
    | some .atomic => (.home, rdataSub grantI 0)
    | some .rdShd | some .rdOwn | some .rdAny | some .rdCur =>
      (if e.ddIssued then (if e.rdata.isSome then .discard else .go) else .home, rdataSub e.grant 0)
    | _ => (.cmp, rdataSub e.grant 0)

/-- Send the verdict: its data, if any, is then awaited (R79, R85). A pool access gets none (R474). -/
def sendVerdict (c : Ch) (t : TileId) (n : Nat) (e : Entry) (s : State) : State :=
  if e.pool then modEntry c t n (fun e => { e with verdict := true }) s
  else
  let v := flowVerdict e
  let pkt := mkPkt (mkHdr v.1.code e.agent e.tag e.laddr e.inst v.2) 0 2 (some e.rid)
  let data := v.1 == .discard || v.1 == .home
  let s := modCh c (fun k => sendOut t .vrs pkt (if data then modReq e.rid (fun o => { o with awaitD := true }) k else k)) s
  let s := modEntry c t n (fun e => { e with verdict := true }) s
  let s := if v.1 == .err then discardAfter c t n s else s
  let s := if e.ddIssued then ev c 0x0B (some (if v.1 == .go then 1 else 2)) (occE t e) s else s
  flushAcks c s

/-- The data of a pool READ is latched, and the access ends DONE (R474). -/
def paLatch (c : Ch) (t : TileId) (n : Nat) (e : Entry) (s : State) : State :=
  let (d, p) := e.rdata.getD (0, true)
  let s := modCh c (fun k => if k.paBusy.any fun q => q.2.2 == e.rid then
    { k with paData := d, paPoison := p, paSrc := e.rsrc } else k) s
  paEnd c e.rid 0 (modEntry c t n (fun e => { e with sentData := true }) s)

/-- RDATA of a flow (R161, R162, R77). -/
def sendData (c : Ch) (t : TileId) (n : Nat) (e : Entry) (s : State) : State :=
  if e.pool then paLatch c t n e s
  else
  let (d, p) := (if e.op == some .atomic then e.value else e.rdata).getD (0, true)
  let h := { mkHdr 0x32 e.agent e.tag e.laddr e.inst
    (rdataSub (if e.op == some .atomic then grantI else e.grant) e.rsrc) with poison := p }
  let s := modCh c (sendOut t .dout ⟨h, d, ~~~0, 0, 2, .flow, some e.rid, none⟩) s
  modEntry c t n (fun e => { e with sentData := true }) s

/-- SEND: the verdict or the data. -/
def actSend (c : Ch) (t : TileId) (n : Nat) (e : Entry) (s : State) : State × Bool :=
  match due s c t n e with
  | .verdict => (sendVerdict c t n e s, true)
  | .data => (sendData c t n e s, true)
  | _ => (s, true)

/-- WAIT: a flow whose condition is not met gives up its engine (R217). -/
def actWait (c : Ch) (t : TileId) (n : Nat) (e : Entry) (s : State) : State × Bool :=
  if due s c t n e == .wait then
    (makePlans c t n (modEntry c t n (fun e => { e with waiting := true }) (modTile c t (leaveEngine n) s)), true)
  else (s, true)

/-- The record of an aborted flow (R236, Table 15-2). -/
def abortRecord (c : Ch) (t : TileId) (n : Nat) (e : Entry) (s : State) : State :=
  record c 3 2 0x0A [subject e.laddr e.agent e.inst, BitVec.ofNat 64
    (e.tag.toNat + (match e.op with | some o => o.code.toNat | none => 0) * 2 ^ 16 + t.val * 2 ^ 22 + n * 2 ^ 26 +
      e.progress.toNat * 2 ^ 34)] false s

/-- END: the flow ends and gives up its engine; an aborted one writes its record. -/
def actEnd (c : Ch) (t : TileId) (n : Nat) (e : Entry) (s : State) : State × Bool :=
  if due s c t n e == .fin then
    let s := if e.aborted then modCh c (modReq e.rid fun o => if e.sentData then o else { o with awaitD := false })
      (abortRecord c t n e s) else s
    let s := if e.aborted && e.pool then paEnd c e.rid errTimeout s else s
    (modEntry c t n (fun e => { e with ended := true }) (modTile c t (leaveEngine n) s), true)
  else (s, true)

-- ## Microsteps that wait

/-- A way is free or can be made free for the flow's directory update, or the flow is still answered with RETRY (R143, R157). -/
def slotMet (s : State) (c : Ch) (t : TileId) (n : Nat) (e : Entry) : Bool :=
  let room := if due s c t n e == .demote then (freeWay (ch s c) t (cirrusSet e.laddr) 0).isSome
    else placeFor s c e.laddr (flowEnd s c e).2 e.agent 0 != .full
  room || (startEvict c t (cirrusSet e.laddr) e.inst e.laddr s).isSome || retryMet s c t n e
/-- The inputs of the flow's next microstep are present (R217), but for a bank grant. -/
def inputsMet (s : State) (c : Ch) (t : TileId) (n : Nat) (e : Entry) : Bool :=
  match due s c t n e with
  | .wait => false
  | .dirRd => !underRecovery (ch s c) e.laddr && !collision (ch s c) e.laddr s.pclk
  | .demote | .dirWr => !recoveryAsked (ch s c) e.laddr && !landingOn s c e.laddr && slotMet s c t n e
  | .snoop => sdataFree (ch s c) && !(e.work == .eviction && stormHeld s c)
  | .merge => e.merging || !mergeBusy (tile s c t) n || e.memAns.isSome
  | .memReq => mrsFree (ch s c)
  | _ => true
/-- A microstep has not committed: a flow that is at no bank port and has not the inputs gives up its engine (R217). -/
def giveUp (c : Ch) (t : TileId) (n : Nat) (s : State) : State :=
  match entry? (tile s c t) n with
  | none => s
  | some e =>
    if e.ended || ((tile s c t).sfReqs ++ (tile s c t).lcReqs).any (·.who == .flow n) || inputsMet s c t n e then s
    else modEntry c t n (fun e => { e with waiting := true, readyAt := s.tick }) (modTile c t (leaveEngine n) s)

/-- Run a microstep of a class: the microword at the resume address must be of the class; an aborted flow fetches none
(R236). `act` answers the state and whether the microstep commits. -/
def microstep (c : Ch) (t : TileId) (odd : Bool) (cls : Nat) (act : Nat → Entry → State → State × Bool) (s : State) :
    State :=
  match stepReady s c t odd with
  | none => s
  | some (n, e) =>
    let s := forEach (entryRows n) (fun r s => readOver c t r.1 r.2 s) s
    let s := if e.aborted then s else fetchRow c (e.resume.toNat / 8) s
    let w := microword (ch s c) e.resume.toNat
    if !enginesRun s c || rowsLost (tile s c t) t n then s
    else if e.aborted || (wordClass w = cls && !wordIllegal w) then
      let gen := genOf (tile s c t) n
      match act n e s with
      | (s, true) => commit c t n gen e s
      | (s, false) => giveUp c t n s
    else s

-- ## The microstep commands

/-- Write a working register. -/
def setReg (dst : Fin 4) (v : Word) (e : Entry) : Entry :=
  match dst with
  | 0 => { e with reg0 := v } | 1 => { e with reg1 := v } | 2 => { e with reg2 := v } | 3 => { e with reg3 := v }

/-- Entry n's context with one of its 16 words replaced (Table 8-3): a working register, or a field as far as its place is
published (assumption 13). -/
def moveTo (n : Nat) (dst : Fin 16) (v : Word) (x : Tile) : Tile :=
  if h : dst.val < 4 then
    match entry? x n with
    | none => x
    | some e => { x with ents := Tab.put x.ents n (setReg ⟨dst.val, h⟩ v e) }
  else
    let row := 160 * (n % 2) + 2 * (n / 2) + dst.val / 8
    liveFrom 0 6 row ((entryWords x 6 row).set (dst.val % 8) v) x
/-- MOVE (Table 8-5): the word of the context that it writes, and the value that the microword computes, are operands of the
command. -/
def execMove (c : Ch) (t : TileId) (odd : Bool) (dst : Fin 16) (val : Word) (s : State) : Host.Outcome State Fault Refusal :=
  .next (microstep c t odd 0 (fun n _ s => (modTile c t (moveTo n dst val) s, true)) s)
/-- DIR_RD. -/
def execDirRd (c : Ch) (t : TileId) (odd : Bool) (s : State) : Host.Outcome State Fault Refusal :=
  .next (microstep c t odd 1 (actDirRd c t) s)
/-- DIR_WR (R224). -/
def execDirWr (c : Ch) (t : TileId) (odd : Bool) (way : Fin 16) (s : State) : Host.Outcome State Fault Refusal :=
  .next (microstep c t odd 2 (actDirWr c t way) s)
/-- LC_ACC (R245). -/
def execLcAcc (c : Ch) (t : TileId) (odd : Bool) (s : State) : Host.Outcome State Fault Refusal :=
  .next (microstep c t odd 3 (actLcAcc c t) s)
/-- SNOOP (R157). -/
def execSnoop (c : Ch) (t : TileId) (odd : Bool) (s : State) : Host.Outcome State Fault Refusal :=
  .next (microstep c t odd 4 (actSnoop c t) s)
/-- MEMREQ. -/
def execMemreq (c : Ch) (t : TileId) (odd : Bool) (s : State) : Host.Outcome State Fault Refusal :=
  .next (microstep c t odd 5 (actMemreq c t) s)
/-- SEND (R161). -/
def execSend (c : Ch) (t : TileId) (odd : Bool) (s : State) : Host.Outcome State Fault Refusal :=
  .next (microstep c t odd 6 (actSend c t) s)
/-- WAIT (R217). -/
def execWait (c : Ch) (t : TileId) (odd : Bool) (s : State) : Host.Outcome State Fault Refusal :=
  .next (microstep c t odd 7 (actWait c t) s)
/-- BRANCH: whether COND holds is an operand of the command. -/
def execBranch (c : Ch) (t : TileId) (odd : Bool) (taken : Bool) (s : State) : Host.Outcome State Fault Refusal :=
  .next (microstep c t odd 8 (fun n e s =>
    let a := wordTarget (microword (ch s c) e.resume.toNat)
    (if taken then modEntry c t n (fun e => { e with resume := BitVec.ofNat 13 a - 1 }) s else s, true)) s)
/-- The operation of a TRACKER microword on the flow's entry (Table 8-5), as the rules of the tracker have it: the chain's next
member becomes head if it may (R179), the chain's waiters are planned (R187), a free reserve entry is bound (R193), waiting
requests take what entries have come free (R212). Which words call for them is not published (assumption 9). -/
def trackerAct (c : Ch) (t : TileId) (op : TrkOp) (n : Nat) (e : Entry) (s : State) : State :=
  match op with
  | .chain => promote c e.laddr s
  | .plan => makePlans c t n s
  | .anchor => bindNext c t s
  | .release => serveWaiters c s
/-- TRACKER. -/
def execTracker (c : Ch) (t : TileId) (odd : Bool) (op : TrkOp) (s : State) : Host.Outcome State Fault Refusal :=
  .next (microstep c t odd 9 (fun n e s => (trackerAct c t op n e s, true)) s)
/-- END. -/
def execEndFlow (c : Ch) (t : TileId) (odd : Bool) (s : State) : Host.Outcome State Fault Refusal :=
  .next (microstep c t odd 0xA (actEnd c t) s)

/-- An engine fault is detected: the engine stops, and the stewards are asked for a failover (R332, R334). -/
def engineFault (c : Ch) (t : TileId) (odd : Bool) (s : State) : State :=
  let s := modTile c t (fun x =>
    let x := if odd then { x with fault1 := true } else { x with fault0 := true }
    match engineRun x odd with
    | some n => leaveEngine n x
    | none => x) s
  askAction c (.failover t odd) false s

/-- The word an engine fetches is illegal (R219). -/
def illegalAct (c : Ch) (t : TileId) (odd : Bool) (s : State) : State :=
  match stepReady s c t odd with
  | none => s
  | some (_, e) =>
    if e.aborted then s
    else
      let s := fetchRow c (e.resume.toNat / 8) s
      if enginesRun s c && wordIllegal (microword (ch s c) e.resume.toNat) then engineFault c t odd s else s
/-- ILLEGAL_MICROWORD (R219). -/
def execIllegalMicroword (c : Ch) (t : TileId) (odd : Bool) (s : State) : Host.Outcome State Fault Refusal :=
  .next (illegalAct c t odd s)

end Sys2Proof.Machine
end

