-- ==== Sys2Proof/Machine/Boundary.lean ====
section
/-! DEFINITION. What comes into the block and where it lands (R30, R31, R87 to R91, R145, R153 to R155, R163, R250, R281,
R282): the ports SNI, DIN and MRS, the sinks of the rings' flits, and the timeouts of data and memory. -/

namespace Sys2Proof.Machine

-- ## The answer ports

/-- One more than the edge of the last crossing of an answer port (R26). -/
def Channel.lastIn (k : Channel) : InPort → Nat | .sni => k.lastSni | .din => k.lastDin | .mrs => k.lastMrs
/-- Record a crossing of an answer port. -/
def tookIn (p : InPort) (now : Nat) (k : Channel) : Channel :=
  match p with
  | .sni => { k with lastSni := now + 1 } | .din => { k with lastDin := now + 1 } | .mrs => { k with lastMrs := now + 1 }
/-- The channel takes a packet on an answer port on this edge: its ready is high, and it has taken none on the edge (R26, R30). -/
def portOpen (s : State) (c : Ch) (p : InPort) : Bool := serving s c && (ch s c).lastIn p != s.pclk + 1
/-- A packet on an answer port: edges pass, and it crosses if the port takes it. -/
def inPacket (c : Ch) (p : InPort) (gap : Nat) (act : State → State) (s : State) : State :=
  let s := passEdges gap s
  if portOpen s c p then act (modCh c (tookIn p s.pclk) s) else s
/-- The channel is fenced for a cause: what arrives is discarded (R30). -/
def discards (s : State) (c : Ch) : Bool := (ch s c).cause != .none

/-- A flit from a port to a tile, class RSP (Table 10-3); the mask flit of a pair carries the mask (R268). -/
def inbound (c : Ch) (t : Nat) (op : BitVec 6) (d : DataIn) (pair : BitVec 2) (rid : Nat) (s : State) : State :=
  let h := { mkHdr op d.agent d.tag d.laddr 0 0 with poison := d.poison }
  modCh c (sendIn t .rsp pair h (if pair == 2 then d.mask.setWidth 512 else d.data) (.inbound rid)) s

/-- Change one snoop of an entry. -/
def modSnp (a : AgentId) (l : LAddr) (f : Snp → Snp) (e : Entry) : Entry :=
  { e with snoops := e.snoops.map fun p => if p.agent == a && p.laddr == l then f p else p }

-- ## SNI

/-- The agent of a channel is a ring agent or the snoop an eviction's or a recovery's (Table 6-3, R145). -/
def answerAllowed (k : Channel) (e : Entry) (p : Snp) (x : Ans) : Bool :=
  allowed p.op (isRing k p.agent) (!e.isRequest) x

/-- A snoop answer crosses SNI: it matches a snoop that has crossed SNO and is unanswered (R90, R181). -/
def answerAct (c : Ch) (r : RspIn) (x : Ans) (s : State) : State :=
  let s := ev c 0x41 none (occTag (ch s c) r.tag r.laddr) s
  if discards s c then s
  else
    match (tagged (ch s c) r.tag).bind fun y => (y.2.2.snoops.find? fun p =>
        p.agent == r.agent && p.laddr == r.laddr && p.out && p.crossed && p.ans.isNone).map fun p => (y, p) with
    | none => protocolError c 0 2 x.code r.laddr r.agent 0 r.tag (occTag (ch s c) r.tag r.laddr) s
    | some ((t, n, e), p) =>
      let ok := answerAllowed (ch s c) e p x
      let s := modEntry c (tileN t) n (modSnp r.agent r.laddr fun p => { p with
        crossed := false, ans := if ok then some x else none, dataDue := ok && x.hasData }) s
      inbound c t x.code ⟨0, r.agent, r.tag, r.laddr, false, 0, 0, false⟩ 0 0 s

/-- A packet on SNI. -/
def answer (c : Ch) (r : RspIn) (x : Ans) (s : State) : State :=
  inPacket c .sni r.gap (answerAct c r x) s

/-- RSP_I. -/
def execRspI (c : Ch) (r : RspIn) (s : State) : Host.Outcome State Fault Refusal := .next (answer c r .i s)
/-- RSP_S. -/
def execRspS (c : Ch) (r : RspIn) (s : State) : Host.Outcome State Fault Refusal := .next (answer c r .s s)
/-- RSP_E. -/
def execRspE (c : Ch) (r : RspIn) (s : State) : Host.Outcome State Fault Refusal := .next (answer c r .e s)
/-- RSP_I_D. -/
def execRspID (c : Ch) (r : RspIn) (s : State) : Host.Outcome State Fault Refusal := .next (answer c r .iD s)
/-- RSP_S_D. -/
def execRspSD (c : Ch) (r : RspIn) (s : State) : Host.Outcome State Fault Refusal := .next (answer c r .sD s)

-- ## DIN

/-- The landing place a WDATA packet matches (R87). -/
def landingFor (k : Channel) (d : DataIn) : Option WExp :=
  k.wexp.find? fun w => w.agent == d.agent && w.tag == d.tag && w.laddr == d.laddr && !w.arrived

/-- The occurrence of a WDATA: of the request whose place it takes. -/
def occData (k : Channel) (d : DataIn) : Occ :=
  match landingFor k d with
  | some w => occOf w.laddr w.agent w.inst
  | none => occTile (home d.laddr)

/-- WDATA crosses DIN: dropped unused where its request was refused, retried or denied (R89), else sent to its tile. What a fenced
channel discards (R30) leaves its write in flight (assumption 110). -/
def wdataAct (c : Ch) (d : DataIn) (s : State) : State :=
  let s := ev c 0x3E (some 0) (occData (ch s c) d) s
  if discards s c then s
  else
    match landingFor (ch s c) d with
    | none => protocolError c (if d.early then 3 else 0) 3 0x30 d.laddr d.agent 0 d.tag (occTile (home d.laddr)) s
    | some w =>
      if w.use == .drop then modCh c (dropped w.rid) s
      else
        let s := modCh c (fun k => { k with wexp := k.wexp.map fun v =>
          if v.rid = w.rid then { v with arrived := true } else v }) s
        if w.op == .wrPtl then inbound c (tileOf d.laddr) 0x30 d 2 w.rid (inbound c (tileOf d.laddr) 0x30 d 1 w.rid s)
        else inbound c (tileOf d.laddr) 0x30 d 0 w.rid s

/-- SDATA where none is due, for a snoop of an open flow (R155): it is recorded as an answer that is not allowed and discarded.
An agent that had answered without data is snooped again, three times in all, while the flow can still use the answer. -/
def strayData (c : Ch) (d : DataIn) (t : TileId) (n : Nat) (e : Entry) (p : Snp) (s : State) : State :=
  let s := protocolError c 2 3 0x31 d.laddr d.agent 0 d.tag (occE t e) s
  if p.ans.isNone || p.out || p.dataDue || p.asDead || e.updated || e.ended ||
      (e.work == .recovery && !e.recovers (tile s c t) n p.laddr) then s
  else if p.tries < 3 then
    modEntry c t n (fun e => wake s.tick (modSnp p.agent p.laddr (fun p => { p with ans := none, crossed := false }) e)) s
  else flushAcks c (settleSnp c t n p s)
/-- The snoop of an open flow that a DIN packet names; an agent declared dead has none (R282). -/
def snoopOf (k : Channel) (d : DataIn) : Option (Nat × Nat × Entry × Snp) :=
  (tagged k d.tag).bind fun y => (y.2.2.snoops.find? fun p =>
    p.agent == d.agent && p.laddr == d.laddr && decide (0 < p.tries) && !agentDead k d.agent).map fun p => (y.1, y.2.1, y.2.2, p)
/-- SDATA crosses DIN: it matches an answer whose data is due (R90, R155). -/
def sdataAct (c : Ch) (d : DataIn) (s : State) : State :=
  let s := ev c 0x3E (some 1) (occTag (ch s c) d.tag d.laddr) s
  if discards s c then s
  else
    match snoopOf (ch s c) d with
    | none => protocolError c 0 3 0x31 d.laddr d.agent 0 d.tag (occTag (ch s c) d.tag d.laddr) s
    | some (t, n, e, p) =>
      if !p.dataDue || p.crossed then strayData c d (tileN t) n e p s
      else
      let s := modEntry c (tileN t) n (modSnp d.agent d.laddr fun p => { p with crossed := true }) s
      inbound c t 0x31 d 0 0 s

/-- WDATA (R87). -/
def execWdata (c : Ch) (d : DataIn) (s : State) : Host.Outcome State Fault Refusal :=
  .next (inPacket c .din d.gap (wdataAct c d) s)
/-- SDATA (R90). -/
def execSdata (c : Ch) (d : DataIn) (s : State) : Host.Outcome State Fault Refusal :=
  .next (inPacket c .din d.gap (sdataAct c d) s)

-- ## MRS

/-- The MRS opcode that answers a memory request (R94). -/
def MemKind.answer : MemKind → BitVec 6 | .rd => 0x3D | .wrPtl => 0x3E | .atom => 0x3F
/-- The MRQ opcode of a memory request. -/
def MemKind.code : MemKind → BitVec 6 | .rd => 0x38 | .wrPtl => 0x3B | .atom => 0x3C

/-- An MRS packet matches nothing (R31): one that comes after its timeout frees the place held for it (R282). -/
def mrsLate (c : Ch) (op : BitVec 6) (tag : Tag) (l : LAddr) (a : AgentId) (s : State) : State :=
  protocolError c 0 4 op l a 0 tag (occTile (home l)) (modCh c (fun k => { k with mrsHeld := k.mrsHeld.filter fun x => x.1 != tag }) s)
/-- A packet crosses MRS: it matches an open memory request of its kind; a late one frees its landing place (R282). -/
def mrsAct (c : Ch) (op : BitVec 6) (d : DataIn) (s : State) : State :=
  let s := ev c 0x3D none (occTag (ch s c) d.tag d.laddr) s
  if discards s c then s
  else
    match tagged (ch s c) d.tag, taggedSlot (ch s c) d.tag with
    | some (t, n, e), _ =>
      if memOut e && !e.memIn && e.mem.any (·.1.answer == op) then
        inbound c t op d 0 0 (modEntry c (tileN t) n (fun e => { e with memIn := true }) s)
      else protocolError c 0 4 op d.laddr d.agent 0 d.tag (occTag (ch s c) d.tag d.laddr) s
    | none, some (t, n, v) =>
      if op == 0x3D && !v.landed then
        let s := modTile c (tileN t) (fun x => { x with slots := Tab.put x.slots n { v with landed := true } }) s
        inbound c t op d 0 0 s
      else protocolError c 0 4 op d.laddr d.agent 0 d.tag (occTag (ch s c) d.tag d.laddr) s
    | none, none => mrsLate c op d.tag d.laddr d.agent s

/-- A packet on MRS. -/
def mrs (c : Ch) (op : BitVec 6) (d : DataIn) (s : State) : State :=
  inPacket c .mrs d.gap (mrsAct c op d) s

/-- MEM_FILL. -/
def execMemFill (c : Ch) (d : DataIn) (s : State) : Host.Outcome State Fault Refusal := .next (mrs c 0x3D d s)
/-- MEM_RMW. -/
def execMemRmw (c : Ch) (d : DataIn) (s : State) : Host.Outcome State Fault Refusal := .next (mrs c 0x3E d s)
/-- MEM_ATOM_RES. -/
def execMemAtomRes (c : Ch) (d : DataIn) (s : State) : Host.Outcome State Fault Refusal := .next (mrs c 0x3F d s)

/-- A crossing of an answer port is counted (0x41, 0x3E, 0x3D): a DIN packet of no known kind is neither qualifier's. -/
def inEvent (c : Ch) (p : InPort) (o : Occ) (s : State) : State :=
  match p with
  | .sni => ev c 0x41 none o s
  | .din => ev c 0x3E (some 7) o s
  | .mrs => ev c 0x3D none o s
/-- An opcode invalid on SNI, DIN or MRS is handled under R31 (R74). -/
def invalidInbound (c : Ch) (p : InPort) (r : RspIn) (opcode : BitVec 6) (s : State) : State :=
  let o := occTag (ch s c) r.tag r.laddr
  let s := inEvent c p o s
  if discards s c then s
  else
    let port := match p with | .sni => 2 | .din => 3 | .mrs => 4
    protocolError c 0 port opcode r.laddr r.agent 0 r.tag o s
/-- INBOUND_INVALID_OPCODE. -/
def execInboundInvalidOpcode (c : Ch) (p : InPort) (r : RspIn) (opcode : BitVec 6) (s : State) :
    Host.Outcome State Fault Refusal :=
  .next (if inboundOpcode p opcode then passEdges r.gap s else inPacket c p r.gap (invalidInbound c p r opcode) s)

-- ## Sinks at the tiles

/-- A snoop answer reaches its flow (R145, R155): one that Table 6-3 does not allow is recorded and the snoop sent again, three
times in all; then the agent is settled as dead for the line. -/
def answerLands (c : Ch) (t : TileId) (h : Header) (s : State) : State :=
  match tagged (ch s c) h.tag with
  | none => s
  | some (_, n, e) =>
    match e.snoops.find? fun p => p.agent == h.agent && p.laddr == h.laddr && p.out with
    | none => s
    | some p =>
      let s := if e.work == .recovery then biStep c s else s
      let s := modEntry c t n (fun e => wake s.tick (modSnp h.agent h.laddr (fun p => { p with out := false }) e)) s
      match p.ans with
      | some x =>
        let s := makePlans c t n (offPlan c t n p x s)
        let s := if x == .i then ev c 0x17 none (occE t e) s else s
        let fwd := match p.op with | .fwd _ => true | .fwdInv => true | _ => false
        let s := if x == .i && fwd then ev c 0x1B none (occE t e) s else s
        flushAcks c s
      | none =>
        let s := protocolError c 2 2 h.opcode h.laddr h.agent 0 h.tag (occE t e) s
        if p.tries < 3 then s else flushAcks c (settleSnp c t n p s)

/-- SDATA lands: it is the flow's once every write of its agent for the line that the flow has absorbed is taken (R154). -/
def sdataLands (c : Ch) (t : TileId) (h : Header) (d : Line) (s : State) : State :=
  match tagged (ch s c) h.tag with
  | none => s
  | some (_, n, e) =>
    if !e.snoops.any fun p => p.agent == h.agent && p.laddr == h.laddr && p.dataDue then s
    else
      takeSdata c t n (modEntry c t n (fun e => wake s.tick
        (modSnp h.agent h.laddr (fun p => { p with dataDue := false, sdata := some (d, h.poison) }) e)) s)

/-- WDATA lands for its use (R87, R107, R154). A write still in its handoff buffer keeps it in the landing place. -/
def useData (c : Ch) (w : WExp) (d : Line) (m : Word) (poison : Bool) (s : State) : State :=
  match w.use with
  | .drop => modCh c (dropped w.rid) s
  | .clearSky t n =>
    let s := placeFor1 c (occOf w.laddr w.agent w.inst) (tileN t) n w.laddr d poison w.inst (modCh c (landed w.rid) s)
    notePlaced c (tileN t) n (modEntry c (tileN t) n (fun e => { e with placed := true }) s)
  | .flow t n =>
    if n < 160 then
      takeBuffer c (tileN t) n
        (modEntry c (tileN t) n (fun e => wake s.tick { e with operand := some (d, m, poison) }) (modCh c (landed w.rid) s))
    else modCh c (fun k => { k with wexp := k.wexp.map fun v =>
      if v.rid = w.rid then { v with data := some (d, m, poison) } else v }) s
  | .absorbed t n =>
    takeBuffer c (tileN t) n
      (takeSdata c (tileN t) n
        (modEntry c (tileN t) n (fun e => wake s.tick (absorbData w.rid w.laddr w.inst (w.op == .wrFull) d m poison e))
          (modCh c (landed w.rid) s)))
/-- The line and the mask of a pair of flits, of which one has come before the other (R268). -/
def joinPair (first : BitVec 2 × Line) (payload : Line) : Line × Word :=
  if first.1 == 1 then (first.2, payload.setWidth 64) else (payload, first.2.setWidth 64)
/-- A WDATA flit lands; the two flits of a WR_PTL are joined (R268). -/
def wdataLands (c : Ch) (rid : Nat) (pair : BitVec 2) (d : Line) (poison : Bool) (s : State) : State :=
  match (ch s c).wexp.find? fun w => w.rid == rid with
  | none => s
  | some w =>
    match (if pair == 0 then some (d, ~~~0) else w.half.map (joinPair · d)) with
    | some (x, m) => useData c w x m poison s
    | none => modCh c (fun k => { k with wexp := k.wexp.map fun v => if v.rid = rid then { v with half := some (pair, d) } else v }) s

/-- The answer of memory reaches entry n: data of a read, the merged line, or the old value of an atomic. -/
def memAnswer (d : Line) (poison : Bool) (e : Entry) : Entry :=
  match e.mem with
  | some (.rd, _) => { e with memAns := some (d, poison), memIn := false, rdata := some (d, poison), rsrc := 1 }
  | some (.wrPtl, _) =>
    if e.absPtl.isEmpty then { e with memAns := some (d, poison), memIn := false, placed := true }
    else { e with memAns := some (d, poison), memIn := false }
  | some (.atom, _) => { e with memAns := some (d, poison), memIn := false, value := some (d, poison), rsrc := 3 }
  | none => e

/-- The data of a non-tracker slot (R81, R113, R251): RDATA with SRC 0b01 for a read, a fill for a prefetch. -/
def slotAnswer (c : Ch) (t : TileId) (n : Nat) (v : NSlot) (tag : Tag) (d : Line) (poison : Bool) (s : State) : State :=
  let s := modTile c t (fun x => { x with slots := Tab.drop x.slots n }) s
  if v.prefetch then fillArrives c (occTile t) t tag d poison s
  else
    let h := { mkHdr 0x32 v.agent v.tag v.laddr v.inst (rdataSub v.grant 1) with poison := poison }
    fillArrives c (occOf v.laddr v.agent v.inst) t tag d poison (modCh c (sendOut t .dout ⟨h, d, ~~~0, 0, 2, .flow, some v.rid, none⟩) s)

/-- An MRS packet lands. -/
def mrsLands (c : Ch) (t : TileId) (h : Header) (d : Line) (s : State) : State :=
  match tagged (ch s c) h.tag, taggedSlot (ch s c) h.tag with
  | some (_, n, e), _ =>
    notePlaced c t n <| modEntry c t n (fun e => wake s.tick (memAnswer d h.poison e))
      (fillArrives c (occE t e) t h.tag d h.poison s)
  | none, some (_, n, v) => slotAnswer c t n v h.tag d h.poison s
  | none, none => if discards s c then s else mrsLate c h.opcode h.tag h.laddr h.agent s

/-- An egress flit reaches its gasket; the two flits of a MEM_WR_PTL are joined (R268). -/
def egressLands (c : Ch) (f : Flit) (p : EgrPort) (pkt : EgrPkt) (s : State) : State :=
  if f.pair == 0 then gasketIn c p { pkt with data := f.payload } s
  else match (ch s c).halves.find? fun x => x.1 == f.hdr with
    | some x =>
      let (d, m) := joinPair x.2 f.payload
      gasketIn c p { pkt with data := d, mask := m } (modCh c (fun k => { k with halves := k.halves.erase x }) s)
    | none => modCh c (fun k => { k with halves := k.halves ++ [(f.hdr, f.pair, f.payload)] }) s

/-- A flit is ejected at its destination stop (R269). In a fenced channel what comes to a tile changes nothing there (R346):
only the answers go on (R58). -/
def sink (c : Ch) (stop : Nat) (f : Flit) (s : State) : State :=
  let t := tileN stop
  if discards s c && (match f.body with | .handoff _ | .inbound _ => true | .egress _ _ | .steward => false) then s
  else match f.body with
  | .handoff n => modEntry c t n (fun e => { e with arrived := true, readyAt := s.tick }) s
  | .inbound rid =>
    if f.hdr.opcode == 0x30 then wdataLands c rid f.pair f.payload f.hdr.poison s
    else if f.hdr.opcode == 0x31 then sdataLands c t f.hdr f.payload s
    else if f.hdr.opcode.toNat < 0x30 then answerLands c t f.hdr s
    else replan c t (mrsLands c t f.hdr f.payload s)
  | .egress p pkt => egressLands c f p pkt s
  | .steward => modCh c (keepNotice stop f) s

/-- One step of a ring with all it brings about (R270, R279, R280): a broken hop is recorded and its ring is to be retired. -/
def hopAct (c : Ch) (r : Nat) (bad : List Nat) (s : State) : State :=
  let x := ringStep (turnPress s c) r bad (ch s c)
  let s := hopCounts c x.2 (modCh c (fun _ => x.1) s)
  let s := forEach x.2.broken (fun stop s =>
    askAction c (.ringRetire r) false
      (modCh c (fun k => notify stop { k with broken := k.broken ||| (1#8 <<< r) }) (record c 5 3 0x0E [BitVec.ofNat 64 (r + stop * 8)] false s))) s
  forEach x.2.ejected (fun y s => sink c y.1 y.2 s) s

/-- FLIT_HOP: one step of ring r; `bad` are the positions where a flit fails its check. -/
def execFlitHop (c : Ch) (r : Fin 8) (bad : List Nat) (s : State) : Host.Outcome State Fault Refusal :=
  .next (if ringRuns s c r then hopAct c r bad s else s)

-- ## Data that never comes (R88, R89)

/-- 10 µs in REFCLK ticks. -/
def tenMicro : Nat := 1000

/-- The write or atomic whose data is missing. -/
def missingData (s : State) (c : Ch) (a : AgentId) (tag : Tag) (l : LAddr) : Option WExp :=
  if !serving s c || discards s c then none
  else (ch s c).wexp.find? fun w => w.agent == a && w.tag == tag && w.laddr == l && !w.arrived &&
    decide (w.since + tenMicro ≤ s.tick)

/-- What missing data brings about (R88, R89). -/
def dataMissing (c : Ch) (w : WExp) (s : State) : State :=
  let rec1 (s : State) : State := dataRecord c w.laddr w.agent w.inst w.tag s
  let s := modCh c (landed w.rid) s
  match w.use with
  | .drop => rec1 (modCh c (dropped w.rid) s)
  | .clearSky t n =>
    rec1 (modEntry c (tileN t) n (fun e => { e with placed := true }) (placeLost c (tileN t) n w.laddr w.inst s))
  | .absorbed t n =>
    modEntry c (tileN t) n (wake s.tick) (takeSdata c (tileN t) n (absorbLost c (tileN t) n w.rid w.laddr w.agent w.inst w.tag s))
  | .flow t n =>
    match entry? (tile s c (tileN t)) n with
    | none =>
      let s := modCh c (fun k => { k with hoff := k.hoff.map fun x => if x.rid = w.rid then { x with lost := true } else x }) s
      if w.op == .atomic then rec1 s else s
    | some e =>
      let s := modEntry c (tileN t) n (fun e => wake s.tick { e with opMissing := true }) s
      if e.verdict || w.op == .atomic then rec1 s else s
/-- WDATA_TIMEOUT (R88, R89). -/
def execWdataTimeout (c : Ch) (agent : AgentId) (tag : Tag) (laddr : LAddr) (s : State) :
    Host.Outcome State Fault Refusal :=
  .next (match missingData s c agent tag laddr with | some w => dataMissing c w s | none => s)

-- ## Memory timeouts (R281, R282)

/-- RING_TMO.TMO as applied: below 0x64 it is 0x64 (Table 10-6). -/
def ringTmo (s : State) (c : Ch) : Nat := max 0x64 (cfC s c 0xA 0x48 0 20)

/-- The timer of a snoop of entry n runs: the clear-sky path's first snoop is past its due edge (R281). -/
def timed (k : Channel) (now t n : Nat) (p : Snp) : Bool :=
  !k.sno.any fun x => decide (x.lane < 2 ∧ now < x.due) && x.ent == some (t, n) && x.hdr.agent == p.agent &&
    x.hdr.laddr == p.laddr
/-- A timeout of an initiator on tile t: event 0x44, and RS_ERR.TIMEOUTS of its stop (R281, R286). -/
def countTimeout (c : Ch) (t kind : Nat) (o : Occ) (s : State) : State :=
  ev c 0x44 (some kind) o (ctAdd (stopAddr c t 0x50) 32 16 1 s)
/-- A memory-timeout record with its count. -/
def memTimeoutRecord (c : Ch) (l : LAddr) (a : AgentId) (i : InstId) (op : BitVec 6) (h : Tag) (s : State) : State :=
  countTimeout c (tagTile h) 1 (occTag (ch s c) h l) (record c 5 2 0x0F [subject l a i, BitVec.ofNat 64 (op.toNat + h.toNat * 2 ^ 6)] false s)
/-- The landing place stays reserved (R282). -/
def holdPlace (c : Ch) (h : Tag) (s : State) : State :=
  modCh c (fun k => { k with mrsHeld := k.mrsHeld ++ [(h, s.tick + 4 * ringTmo s c)] }) s

/-- The memory request of entry n has timed out: the flow goes to the abort sequence, after a poisoned MEM_WR where the lost
packet wrote (Table 10-4). A read that has sent HOME takes the synthesized MEM_FILL as its data. That the
entry's home tag takes its new generation (R282) at once is the model's choice (assumption 107). -/
def memLost (c : Ch) (t : TileId) (n : Nat) (e : Entry) (h : Tag) (s : State) : State :=
  match e.mem with
  | none => s
  | some (k, _) =>
    let (l, i) := match e.absPtl with | x :: _ => (x.1, x.2.2.2.2) | [] => (e.laddr, e.inst)
    let s := memTimeoutRecord c l e.agent e.inst k.code h s
    let s := fillLost c (occE t e) t h (holdPlace c h s)
    let s := modTile c t (fun x => { x with gens := Tab.put x.gens n (genOf x n + 1) }) s
    let s := if k == .rd then s else sendMemWr c t n l 0 true i s
    let s := if e.isRequest then abandon c t n e s else s
    takeSdata c t n <| modEntry c t n (fun e => wake s.tick { e with
      mem := none, memIn := false, absPtl := e.absPtl.drop 1
      memAns := if k == .rd && owesData e then some (0, true) else none
      rdata := if k == .rd && owesData e then some (0, true) else e.rdata
      rsrc := if k == .rd && owesData e then 1 else e.rsrc
      placed := e.placed || k == .wrPtl && e.absPtl.isEmpty }) s
/-- The slot's memory read has timed out. -/
def slotLost (c : Ch) (t : TileId) (n : Nat) (v : NSlot) (h : Tag) (s : State) : State :=
  slotAnswer c t n v h 0 true (holdPlace c h (memTimeoutRecord c v.laddr v.agent v.inst 0x38 h s))

/-- MEM_TIMEOUT (R281). -/
def memTimeoutAct (c : Ch) (h : Tag) (s : State) : State :=
  match tagged (ch s c) h, taggedSlot (ch s c) h with
  | some (t, n, e), _ =>
    if memOut e && e.mem.any (fun m => decide (m.2 + ringTmo s c ≤ s.tick)) then memLost c (tileN t) n e h s else s
  | none, some (t, n, v) => if v.since + ringTmo s c ≤ s.tick then slotLost c (tileN t) n v h s else s
  | none, none => s
/-- MEM_TIMEOUT (R281). -/
def execMemTimeout (c : Ch) (home : Tag) (s : State) : Host.Outcome State Fault Refusal :=
  .next (if serving s c && !discards s c then memTimeoutAct c home s else s)

/-- MRS_RESERVATION_END (R282). -/
def execMrsReservationEnd (c : Ch) (home : Tag) (s : State) : Host.Outcome State Fault Refusal :=
  .next (if serving s c then
    modCh c (fun k => { k with mrsHeld := k.mrsHeld.filter fun x => x.1 != home || decide (s.tick < x.2) }) s else s)

end Sys2Proof.Machine
end

