-- ==== Sys2Proof/Machine/Arbiter.lean ====
section
/-! DEFINITION. The two arbiters (R231 to R239): ranking, dispatch, hold limits and starvation; the release of tracker entries
(R212); and the lapse of anchors (R195). -/

namespace Sys2Proof.Machine

-- ## Ranking (R231, R234)

/-- The test cause of R234: the channel's checker test mode, or a bank held in raw access. -/
def testCause (s : State) (c : Ch) : Bool := cfC s c 0xC 0x88 0 1 == 1 || (Tab.get? s.raw c).isSome
/-- Nearest-deadline-first is in force (R234). -/
def nearestFirst (s : State) (c : Ch) : Bool :=
  match cfC s c 7 0x50 0 2 with
  | 1 => false
  | 2 => true
  | _ => (ch s c).startup || testCause s c || recovering (ch s c)

/-- A deadline as a rank: nearer is smaller (R215). -/
def nearness (tick : Nat) (d : BitVec 21) : Nat := (d - BitVec.ofNat 21 tick + BitVec.ofNat 21 (2 ^ 20)).toNat

/-- The rank of a requester as a number, smaller first: level; then deadline and age, or age (R234). Of one stamp a request comes
before the rest (R214); stamps that rank as oldest, and requesters that are alike in all this, go by index, the tile's entries and
then its other requesters (DESIGN CHOICE, assumption 67). -/
def rankOf (s : State) (c : Ch) (cls : Nat) (age : BitVec 32) (d : BitVec 21) (request : Bool) (index : Nat) : Nat :=
  let lv := 7 - levelOf s c cls
  let dl := if nearestFirst s c then nearness s.tick d else 0
  let old := behind (ch s c).age age
  let alike := if old = 2 ^ 30 then 0 else (!request).toNat
  (((lv * 2 ^ 22 + dl) * 2 ^ 31 + (2 ^ 30 - old)) * 2 + alike) * 512 + index

-- ## Dispatch (R217, R233)

/-- The entry runs as a flow (Table 8-6): a clear-sky write and the write-back of a line-cache victim do not. -/
def hasFlow (e : Entry) : Bool := !e.clearSkyWrite && e.work != .victim
/-- An engine of the tile runs entry n. -/
def onEngine (x : Tile) (n : Nat) : Bool := x.run0 == some n || x.run1 == some n
/-- A flow that is ready and on no engine (R217). -/
def flowReady (s : State) (c : Ch) (t : TileId) (x : Nat × Entry) : Bool :=
  let e := x.2
  hasFlow e && e.arrived && !e.ended && (!e.inChain || e.head) && !(e.waiting && !inputsMet s c t x.1 e) &&
    !onEngine (tile s c t) x.1
/-- The ready flows of a tile. -/
def readyFlows (s : State) (c : Ch) (t : TileId) : List (Nat × Entry) := (tile s c t).ents.filter (flowReady s c t)

/-- The rank of a flow at the engines. -/
def flowRank (s : State) (c : Ch) (x : Nat × Entry) : Nat :=
  rankOf s c (clsOf x.2) x.2.age x.2.deadline x.2.isRequest x.1
/-- The level of a flow. -/
def flowLevel (s : State) (c : Ch) (e : Entry) : Nat := levelOf s c (clsOf e)

/-- STARVE as applied (Table 8-15). -/
def starveTicks (s : State) (c : Ch) : Nat := atLeast1 (cfC s c 7 0x50 32 16)
/-- A flow has been ready without an engine for more than STARVE ticks (R238). -/
def flowStarves (s : State) (c : Ch) (x : Nat × Entry) : Bool := decide (x.2.readyAt + starveTicks s c < s.tick)
/-- The starving flows of class k at a tile's engines. -/
def starvingFlows (s : State) (c : Ch) (t : TileId) (k : Nat) : List (Nat × Entry) :=
  (readyFlows s c t).filter fun x => clsOf x.2 == k && flowStarves s c x
/-- A request at a bank port starves (R238). -/
def reqStarves (s : State) (c : Ch) (k : Nat) (q : BankReq) : Bool :=
  q.cls == k && decide (q.since + starveTicks s c < s.tick)
/-- The starving requests of class k at a bank's port. -/
def starvingReqs (s : State) (c : Ch) (t : TileId) (b : Bank) (k : Nat) : List BankReq :=
  (reqsOf (tile s c t) b).filter (reqStarves s c k)
/-- Some requester of class k in tile t starves. -/
def starving (s : State) (c : Ch) (t : TileId) (k : Nat) : Bool :=
  !(starvingFlows s c t k).isEmpty || !(starvingReqs s c t .sf k ++ starvingReqs s c t .lc k).isEmpty
/-- Starvation bits whose class or tile starves no more clear (R238). -/
def refreshStarve (c : Ch) (s : State) : State :=
  if (ch s c).starveE == 0 && (ch s c).starveT == 0 then s
  else
    modCh c (fun k => { k with
      starveE := (List.range 9).foldl (fun m i =>
        if allTiles.any fun t => starving s c t i then m else m &&& ~~~(1#9 <<< i)) k.starveE
      starveT := allTiles.foldl (fun m t =>
        if (List.range 9).any fun i => starving s c t i then m else m &&& ~~~(1#16 <<< t.val)) k.starveT }) s

/-- A flow that a tick finds neither ready nor on an engine is ready from that tick on, if it then is (R238); lines that recoveries
have released go to their chains (R337). -/
def readyTick (c : Ch) (s : State) : State :=
  refreshStarve c <| releaseRecovered c (forEach allTiles (fun t s =>
    forEach ((tile s c t).ents.filter fun x => hasFlow x.2 && !onEngine (tile s c t) x.1 && !flowReady s c t x)
      (fun x s => modEntry c t x.1 (fun e => { e with readyAt := s.tick }) s) s) s)
/-- Put a flow on an engine; a flow that has not started takes the entry address of its vector (R220). -/
def runOn (c : Ch) (t : TileId) (odd : Bool) (x : Nat × Entry) (s : State) : State :=
  let v := vectorOf x.2
  let s := if x.2.started || x.2.aborted then s else fetchRow c (v / 8) s
  let a := if x.2.started then x.2.resume else BitVec.ofNat 13 (wordTarget (microword (ch s c) v))
  if !enginesRun s c then s
  else
    let s := modEntry c t x.1 (fun e => { e with
      started := true, resume := a, oddRan := odd, waiting := false, runLen := 0, readyAt := s.tick, watch := 0 }) s
    refreshStarve c (ev c 0x2D (some 0) (occE t x.2) (modTile c t (setRun odd (some x.1)) s))

/-- A flow stops at a microstep boundary and is ready again (R223). -/
def stopFlow (c : Ch) (t : TileId) (n : Nat) (s : State) : State :=
  modEntry c t n (fun e => { e with runLen := 0, readyAt := s.tick }) (modTile c t (leaveEngine n) s)

/-- Flows on engines that no longer run are given up (R225). -/
def clearEngines (c : Ch) (t : TileId) (s : State) : State :=
  forEach [false, true] (fun odd s =>
    match engineRun (tile s c t) odd with
    | some n => if engineUp s c t odd then s else stopFlow c t n s
    | none => s) s

/-- Dispatch (R233): a free engine takes the highest-ranked ready flow; else the lowest-ranked running flow gives way to a
ready flow of strictly higher level. -/
def dispatchAct (c : Ch) (t : TileId) (s : State) : State :=
  let s := clearEngines c t s
  match leastBy (flowRank s c) (readyFlows s c t) with
  | none => s
  | some x =>
    let up := [false, true].filter (engineUp s c t)
    match up.find? fun odd => (engineRun (tile s c t) odd).isNone with
    | some odd => runOn c t odd x s
    | none =>
      let run := up.filterMap fun odd => (engineRun (tile s c t) odd).bind fun n =>
        (entry? (tile s c t) n).map fun e => (odd, n, e)
      match leastBy (fun y => 2 ^ 80 - flowRank s c (y.2.1, y.2.2)) run with
      | none => s
      | some (odd, n, e) =>
        if flowLevel s c e < flowLevel s c x.2 then
          runOn c t odd x (ev c 0x2D (some 1) (occE t e) (stopFlow c t n s))
        else s
/-- ENGINE_DISPATCH (R233). -/
def execEngineDispatch (c : Ch) (t : TileId) (s : State) : Host.Outcome State Fault Refusal :=
  .next (if enginesRun s c then dispatchAct c t s else s)

-- ## Hold limits (R235, R236)

/-- The cut-off record (Table 15-2, TYPE 0x09) and count; arbiter 0 bank, 1 engine. -/
def cutoffRecord (c : Ch) (t : TileId) (n : Nat) (e : Entry) (arb cuts : Nat) (s : State) : State :=
  ev c 0x30 (some arb) (occE t e) (record c 3 0 0x09 [subject e.laddr e.agent e.inst, BitVec.ofNat 64
    (arb + clsOf e * 2 + t.val * 2 ^ 5 + n * 2 ^ 9 + cuts * 2 ^ 17)] false s)
/-- The third cut-off (R236): a request flow is aborted; any other is an engine fault. -/
def thirdCutoff (c : Ch) (t : TileId) (n : Nat) (e : Entry) (s : State) : State :=
  if e.isRequest then ev c 0x31 none (occE t e) (abandon c t n e s) else engineFault c t e.oddRan s
/-- A cut-off of entry n's flow. -/
def cutoff (c : Ch) (t : TileId) (n arb : Nat) (s : State) : State :=
  match entry? (tile s c t) n with
  | none => s
  | some e =>
    let cuts := min 3 (e.cutoffs.toNat + 1)
    let s := cutoffRecord c t n e arb cuts s
    let s := modEntry c t n (fun e => { e with cutoffs := BitVec.ofNat 2 cuts }) s
    if cuts = 3 ∧ e.cutoffs.toNat < 3 then thirdCutoff c t n e s else s

/-- The flow of an engine has run ENG_HOLD microsteps (R235). -/
def engineHeld (s : State) (c : Ch) (t : TileId) (odd : Bool) : Option Nat :=
  (engineRun (tile s c t) odd).filter fun n => (entry? (tile s c t) n).any fun e => decide (engHold s c ≤ e.runLen)
/-- ENGINE_HOLD_CUTOFF (R235). -/
def execEngineHoldCutoff (c : Ch) (t : TileId) (odd : Bool) (s : State) : Host.Outcome State Fault Refusal :=
  .next (if enginesRun s c then
    (match engineHeld s c t odd with | some n => cutoff c t n 1 (stopFlow c t n s) | none => s) else s)

/-- A bank grant has reached BANK_HOLD accesses (R235). -/
def bankHeld (s : State) (c : Ch) (t : TileId) (b : Bank) : Option Nat :=
  ((grantOf (tile s c t) b).filter fun g => decide (bankHold s c ≤ g.used)).map (·.ent)
/-- The grant ends, and its holder waits again at its rank. -/
def bankCutAct (c : Ch) (t : TileId) (b : Bank) (n : Nat) (s : State) : State :=
  let s := modTile c t (setGrant b none) s
  match entry? (tile s c t) n with
  | none => s
  | some e => cutoff c t n 0 (bankAsk c t b n e s)
/-- BANK_HOLD_CUTOFF (R235). -/
def execBankHoldCutoff (c : Ch) (t : TileId) (b : Bank) (s : State) : Host.Outcome State Fault Refusal :=
  .next (if enginesRun s c then
    (match bankHeld s c t b with | some n => bankCutAct c t b n s | none => s) else s)

-- ## Starvation (R238)

/-- The first starving flow of the class that has no record yet. -/
def starveFlow (s : State) (c : Ch) (t : TileId) (k : Nat) : Option (Nat × Entry) :=
  (starvingFlows s c t k).find? fun x => x.2.starved != some x.2.readyAt
/-- The first starving request of the class at a bank port that has no record yet, the snoop filter's first. -/
def starveReq (s : State) (c : Ch) (t : TileId) (k : Nat) : Option (Bank × BankReq) :=
  [Bank.sf, .lc].findSome? fun b => ((starvingReqs s c t b k).find? (!·.starved)).map fun q => (b, q)
/-- A requester of the class that starves and has no record yet: a flow at the engines, or a request at a bank port. -/
def starveDue (s : State) (c : Ch) (t : TileId) (engine : Bool) (k : Nat) : Bool :=
  enginesRun s c && if engine then (starveFlow s c t k).isSome else (starveReq s c t k).isSome
/-- The record of one more requester is noted; what the requester belongs to. -/
def noteStarved (c : Ch) (t : TileId) (engine : Bool) (k : Nat) (s : State) : State × Occ :=
  if engine then
    match starveFlow s c t k with
    | none => (s, occTile t)
    | some x => (modEntry c t x.1 (fun e => { e with starved := some e.readyAt }) s, occE t x.2)
  else
    match starveReq s c t k with
    | none => (s, occTile t)
    | some (b, q) =>
      (modTile c t (fun x => setReqs b ((reqsOf x b).map fun p => if p.who == q.who then { p with starved := true } else p) x) s,
        occWho (ch s c) t q.who)
/-- The bits, the record (TYPE 0x0B) and the count. -/
def starveAct (c : Ch) (t : TileId) (engine : Bool) (k : Nat) (s : State) : State :=
  let (s, o) := noteStarved c t engine k s
  let s := modCh c (fun x => { x with starveE := x.starveE ||| (1#9 <<< k), starveT := x.starveT ||| (1#16 <<< t.val) }) s
  ev c 0x32 none o (record c 3 1 0x0B [BitVec.ofNat 64 (k + t.val * 2 ^ 4 + engine.toNat * 2 ^ 8)] false s)
/-- STARVATION_ONSET (R238). -/
def execStarvationOnset (c : Ch) (t : TileId) (engine : Bool) (cls : Fin 9) (s : State) :
    Host.Outcome State Fault Refusal :=
  .next (if starveDue s c t engine cls then starveAct c t engine cls s else s)

-- ## Release (R193, R212)

/-- The entry's work is over and every MEM_WR it waits for has crossed (R107, R169, R246, R248). -/
def releasable (e : Entry) : Bool :=
  e.pend == 0 &&
    if e.clearSkyWrite then e.placed else e.ended || e.work == .victim

/-- A broadcast-invalidation recovery of a block has ended (R337): its record, counts, and the block free. -/
def recoveryDone (c : Ch) (t : TileId) (ext : Bool) (row pairs : Nat) (s : State) : State :=
  let planted := (tile s c t).biRows.any fun r => r.1 == ext && r.2.1 == row && r.2.2
  let s := modTile c t (fun x => { x with biRows := x.biRows.filter fun r => !(r.1 == ext && r.2.1 == row) }) s
  let set := if ext then 8 * row else row / 4
  let block := if ext then Config.extensionBlock.toNat else row % 4
  let s := record c 8 2 0x16 [BitVec.ofNat 64 (t.val + set * 2 ^ 4 + block * 2 ^ 15),
    BitVec.ofNat 64 (pairs % 2 ^ 16 + (decide (2048 < pairs)).toNat * 2 ^ 16)] planted s
  let s := ctAdd (addrC c 0xD 0x58) 32 16 1 s
  count c 0x52 none pairs (occTile t) (ev c 0x51 (some 5) (occTile t) s)

/-- The data a maintenance entry received counts for its job: written, or discarded for a retired page (R406, Table 12-6). -/
def countLine (c : Ch) (t : TileId) (id : Nat) (written : Bool) (s : State) : State :=
  let s := modCh c (fun k => { k with jobs := k.jobs.map fun j =>
    if j.id = id then (if written then { j with written := j.written + 1 } else { j with discarded := j.discarded + 1 })
    else j }) s
  ev c 0x3A (some (if written then 0 else 1)) (occTile t) s
/-- What the release of a maintenance entry counts. -/
def maintReceived (c : Ch) (e : Entry) (s : State) : State :=
  match e.work with
  | .maint j => if e.dataRcvd then countLine c (home e.laddr) j (!retiring (ch s c) e) s else s
  | _ => s

/-- Release entry n: what its work comes to, and what its going brings about (R179, R193, R212); plans that reckoned without the
data it received are discarded (R189). -/
def releaseAct (c : Ch) (t : TileId) (n : Nat) (e : Entry) (s : State) : State :=
  let s := if e.work == .recovery then recoveryDone c t (e.stamp % 2 == 1) (e.stamp / 2) e.snoops.length s else s
  let s := maintReceived c e s
  let s := if e.pool && e.op != some .rdCur && e.placed && !e.aborted && (ch s c).paRetry.isNone then paEnd c e.rid 0 s else s
  let s := if e.dataRcvd && e.inChain then discardAfter c t n s else s
  refreshStarve c (dropEntry c t n e s)
/-- TRACKER_ENTRY_RELEASE (R212). -/
def execTrackerEntryRelease (c : Ch) (t : TileId) (n : Nat) (s : State) : Host.Outcome State Fault Refusal :=
  .next (match (if enginesRun s c then entry? (tile s c t) n else none) with
    | some e => if releasable e then releaseAct c t n e s else s
    | none => s)

-- ## Anchors (R195)

/-- A binding of the agent has lapsed. -/
def lapseDue (s : State) (c : Ch) (a : AgentId) : Option Anchor :=
  if !enginesRun s c then none
  else (Tab.get? (ch s c).anchors a.toNat).filter fun x =>
    x.bound.any fun t0 => decide (t0 + anchorLapse s c ≤ s.tick)
/-- The lapse (R195): the entry returns, the anchor is FREE, counted and recorded. -/
def lapseAct (c : Ch) (a : AgentId) (x : Anchor) (s : State) : State :=
  let s := modCh c (fun k => { k with anchors := Tab.drop k.anchors a.toNat }) s
  let s := record c 1 0 0x03 [subject x.line a x.inst] false (ev c 0x26 none (occOf x.line a x.inst) s)
  bindNext c (tileN x.tile) s
/-- ANCHOR_LAPSE (R195). -/
def execAnchorLapse (c : Ch) (agent : AgentId) (s : State) : Host.Outcome State Fault Refusal :=
  .next (match lapseDue s c agent with | some x => lapseAct c agent x s | none => s)

end Sys2Proof.Machine
end

