-- ==== Sys2Proof/Machine/Integrity.lean ====
section
/-! DEFINITION. Data integrity (12): the word codes of queues and the journal (R311), the scrubbers (R319, R320), the rain
gauges (R321), and the decay of way failure counts (R256). -/

namespace Sys2Proof.Machine

-- ## Word codes (R311)

/-- What a read of a queue or journal word delivers: its value, and how it fared. -/
inductive WordRead
  | good (v : Word)
  | mended (v : Word)
  | bad (v : Word)
  deriving DecidableEq, Repr

/-- The value delivered. -/
def WordRead.value : WordRead → Word
  | .good v => v
  | .mended v => v
  | .bad v => v
/-- The word is delivered with poison. -/
def WordRead.poison : WordRead → Bool
  | .bad _ => true
  | _ => false

/-- Read a word whose stored data and check field differ from what was written by `d` and `e`, under parity or SEC-DED. Parity
finds any odd number of bad bits of the 72 (R311; DEDUCED, assumption 102). -/
def readWord (w d : Word) (e : BitVec 8) (par : Bool) : WordRead :=
  if d = 0 ∧ e = 0 then .good w
  else if par then
    if (popcount d.toNat 64 + popcount e.toNat 8) % 2 = 1 then .bad (w ^^^ d) else .good (w ^^^ d)
  else
    let n := popcount d.toNat 64 + popcount e.toNat 8
    if n = 1 then .mended w
    else if n = 2 then .bad (w ^^^ d)
    else
      let chk := Config.hsiaoCheck w ^^^ e
      if Config.wordManyBad (w ^^^ d) chk then .bad (w ^^^ d) else .good (Config.wordManyValue (w ^^^ d) chk)

/-- The code a word of a queue row was written with: the majority of its three mode bits. -/
def queuePar (k : Channel) (row w : Nat) : Bool :=
  let m := (Tab.getD k.rows (rowKey 9 0 row) ⟨0, 0, false⟩).row
  decide (2 ≤ popcount (m.toNat / 2 ^ (3 * w)) 3)
/-- Read word w of a queue row. -/
def readQWord (k : Channel) (row w : Nat) : WordRead :=
  let x := Tab.getD k.qBad (row * 8 + w) (0, 0)
  readWord (memWord k 9 0 row w) x.1 x.2 (queuePar k row w)
/-- A read of word w of a queue row in channel c has found r: a mended word is rewritten, which takes the row's planted mark
(R322), and what is found is counted (R311, R321). -/
def noteQWord (c : Ch) (row w : Nat) (r : WordRead) (s : State) : State :=
  let planted := rowPlanted (ch s c) (rowKey 9 0 row)
  match r with
  | .good _ => s
  | .mended _ =>
    correctable c 5 none planted (modCh c (fun k => { k with
      qBad := Tab.drop k.qBad (row * 8 + w)
      rows := Tab.put k.rows (rowKey 9 0 row) { Tab.getD k.rows (rowKey 9 0 row) ⟨0, 0, false⟩ with planted := false } }) s)
  | .bad _ => uncorrectable c 5 0 row 0 0 planted s
/-- Word w of a queue row is read. -/
def takeQWord (c : Ch) (row w : Nat) (s : State) : State := noteQWord c row w (readQWord (ch s c) row w) s

/-- A word of a journal slot as stored. -/
def readJWord (s : State) (slot w : Nat) : WordRead :=
  match Tab.get? s.jrn slot with
  | none => .good 0
  | some e =>
    let x := Tab.getD s.jrnBad (slot * 4 + w) (0, 0)
    readWord (e.word w) x.1 x.2 e.parity
/-- CAPACITY of the journal gauge (Table 12-13). -/
def jrnCap (s : State) : Nat := atLeast1 (cfB s 0 0x80 28 12)
/-- Read a word of the journal: a mended word is rewritten and raises the journal gauge (R321); an uncorrectable one is
recorded at the lowest-numbered channel that is ON. -/
def takeJWord (slot w : Nat) (s : State) : State × WordRead :=
  let r := readJWord s slot w
  match r with
  | .good _ => (s, r)
  | .mended _ =>
    ({ s with
      jrnBad := Tab.drop s.jrnBad (slot * 4 + w), jrnGauge := min (s.jrnGauge + 1) (jrnCap s)
      jrnLeakAt := if s.jrnGauge = 0 then s.tick else s.jrnLeakAt }, r)
  | .bad _ =>
    (match lowestOn s with
      | some c => recordAs 0 c 7 2 0x11 [0, BitVec.ofNat 64 (7 + slot % 65536 * 2 ^ 8)] false s
      | none => s, r)

-- ## Gauges and way counts (R256, R321)

/-- An interval in units of 1,024 ticks, 0 being applied as 1. -/
def kiloTicks (n : Nat) : Nat := atLeast1 n * 1024
/-- The leak interval of gauge g has passed since the level left 0 or last fell. Gauge 7 is the journal's, whatever the channel. -/
def leakDue (s : State) (c : Ch) (g : Fin 8) : Bool :=
  if h : g.val < 7 then serving s c && decide (0 < (ch s c).gauges[g.val]) &&
    decide ((ch s c).leakAt[g.val] + kiloTicks (cfC s c 0xC (0x50 + 8 * g) 32 16) ≤ s.tick)
  else running s && decide (0 < s.jrnGauge) && decide (s.jrnLeakAt + kiloTicks (cfB s 0 0x80 40 16) ≤ s.tick)
/-- The level of a gauge falls by 1. -/
def leak (c : Ch) (g : Fin 8) (s : State) : State :=
  if h : g.val < 7 then modCh c (fun k => { k with
    gauges := k.gauges.set g.val (k.gauges[g.val] - 1), leakAt := k.leakAt.set g.val s.tick }) s
  else { s with jrnGauge := s.jrnGauge - 1, jrnLeakAt := s.tick }
/-- GAUGE_LEAK (R321). -/
def execGaugeLeak (c : Ch) (g : Fin 8) (s : State) : Host.Outcome State Fault Refusal :=
  .next (if leakDue s c g then leak c g s else s)

/-- The decay interval of a way has passed since its count left 0 or last fell (R256). -/
def decayDue (s : State) (c : Ch) (t : TileId) (w : Nat) : Bool :=
  serving s c && decide (0 < Tab.getD (tile s c t).fails w 0) &&
    decide (Tab.getD (tile s c t).decayAt w 0 + kiloTicks (cfC s c 8 0x40 8 16) ≤ s.tick)
/-- WAY_COUNT_DECAY (R256). -/
def execWayCountDecay (c : Ch) (t : TileId) (w : Fin 16) (s : State) : Host.Outcome State Fault Refusal :=
  .next (if decayDue s c t w then modTile c t (fun x => { x with
    fails := Tab.put x.fails w (Tab.getD x.fails w 0 - 1), decayAt := Tab.put x.decayAt w s.tick }) s else s)

-- ## Scrubbers (R319, R320)

/-- The array and row of a tile scrubber's position in its cycle of 13,968 blocks. -/
def scrubRow (p : Nat) : Nat × Nat :=
  if p < 8192 then (0, p)
  else if p < 8448 then (1, p - 8192)
  else if p < 8960 then (3, p - 8448)
  else if p < 9472 then (4, p - 8960)
  else if p < 13568 then (2, p - 9472)
  else if p < 13648 then (5, p - 13568)
  else (6, p - 13648)
/-- The bank whose port a scrub read of an array takes: for tracker entries and flow contexts the snoop filter's (DESIGN CHOICE,
assumption 69). -/
def scrubBank (arr : Nat) : Bank := if 2 ≤ arr ∧ arr ≤ 4 then .lc else .sf
/-- A block of the snoop filter: mended, or sent to broadcast invalidation; KIND 0b11 counts as an error (R128). -/
def scrubDir (c : Ch) (t : TileId) (arr row : Nat) (s : State) : State :=
  let key := rowKey arr t row
  let bad3 := arr == 0 && (List.range 4).any fun j => slotAt (ch s c) t (row / 4) (row % 4 * 4 + j) == .bad
  match rowOutcome (ch s c) key with
  | .mended _ _ => mendRows c 0 t [(arr, row)] s
  | .bad => dirBlock c t (arr == 1) row 0 s
  | .good => if bad3 then dirBlock c t (arr == 1) row 0 s else s

/-- A DIRTY frame whose data is lost, found by the scrubber: the line goes to memory as poison, by a background entry (R320). -/
def scrubDirty (c : Ch) (t : TileId) (set way : Nat) (s : State) : State :=
  let l := frameLine c t set (tagAt (ch s c) t set way).tag
  match openBackground c l .victim s with
  | (s, none) => s
  | (s, some n) =>
    let planted := rowPlanted (ch s c) (frameKey t set way)
    let s := sendMemWr c t n l 0 true 0 s
    let s := modCh c (fun k => putTag t set way TagE.none (zeroRow (frameKey t set way) k)) s
    wayFault c t way 4 planted (uncorrectable c 1 t (set * 16 + way) 0xF (subject l 0 0) planted s)
/-- A frame's data (R320). -/
def scrubFrame (c : Ch) (t : TileId) (row : Nat) (s : State) : State :=
  let set := row / 16
  let way := row % 16
  let s := readTags c t set s
  let e := tagAt (ch s c) t set way
  if !e.valid then s
  else match rowOutcome (ch s c) (frameKey t set way) with
    | .bad =>
      if lineOpen s c (frameLine c t set e.tag) then s
      else if e.dirty then scrubDirty c t set way s else readFrame c t set way s
    | _ => readFrame c t set way s
/-- A tag block of one copy. -/
def scrubTags (c : Ch) (t : TileId) (arr row : Nat) (s : State) : State :=
  if tagsBad (ch s c) t (row / 2) (row % 2) then tagsDouble c t (row / 2) (row % 2) s
  else mendTag c t (row / 2) (row % 2) (arr - 3) s
/-- A scrub read of one block of a tile. -/
def scrubBlock (c : Ch) (t : TileId) (arr row : Nat) (s : State) : State :=
  if arr ≤ 1 then scrubDir c t arr row s
  else if arr = 2 then (if (tile s c t).gated then s else scrubFrame c t row s)
  else if arr ≤ 4 then (if (tile s c t).gated then s else scrubTags c t arr row s)
  else readOver c t arr row s

/-- The tile scrubber goes on to its next block; tile_0 counts its cycles. -/
def scrubNext (c : Ch) (t : TileId) (s : State) : State :=
  let p := (tile s c t).scrubPos + 1
  let s := ev c 0x4D none (occTile t) (modTile c t (fun x => { x with scrubPos := p % 13968 }) s)
  if p = 13968 ∧ t.val = 0 then ctAdd (addrC c 0xC 0x48) 16 32 1 s else s
/-- A step of a tile's scrubber, under its grant: one access. -/
def scrubGo (c : Ch) (t : TileId) (s : State) : State :=
  let r := scrubRow (tile s c t).scrubPos
  scrubNext c t (scrubBlock c t r.1 r.2 s)

-- ## Bank grants (R232)

/-- The place of a requester at a bank's port among those of equal rank. -/
def BankWho.index : BankWho → Nat
  | .flow n => n
  | .scrub => 160
  | .mend _ _ => 161
  | .fetch _ => 162
  | .reclaim => 163
  | .recovery => 164
  | .step _ => 165
/-- The background step that has asked for a port is still to be taken. -/
def stepWaits (k : Channel) : BankWho → Bool
  | .reclaim => !k.walks.isEmpty
  | .recovery => k.action.any fun a => match a with | .broadcast _ _ _ => true | _ => false
  | .step j => k.jobs.any (·.id == j)
  | _ => true
/-- The requester is a request's (R214). -/
def BankReq.ofRequest (q : BankReq) : Bool := decide (q.cls < 4) || q.cls == clsFetch
/-- The highest-ranked request at a bank's port. -/
def bankBest (s : State) (c : Ch) (t : TileId) (b : Bank) : Option BankReq :=
  leastBy (fun q => rankOf s c q.cls q.age q.deadline q.ofRequest q.who.index) (reqsOf (tile s c t) b)
/-- A block that a lookup has corrected is rewritten (R309). -/
def mendNow (c : Ch) (t : TileId) (arr row : Nat) (s : State) : State :=
  if arr = 3 ∨ arr = 4 then
    if tagsBad (ch s c) t (row / 2) (row % 2) then s else rewriteTag c t (row / 2) (row % 2) (arr - 3) s
  else match rowOutcome (ch s c) (rowKey arr t row) with
    | .mended w b => modCh c (mendRow (rowKey arr t row) w b) s
    | _ => s
/-- The bank port's grant (R232): the highest-ranked request takes a free port. A flow holds it, and a background step until it is
taken; the one access of the scrubber, of a rewrite or of an early fetch is made at once, and the port is free again. -/
def bankGrantAct (c : Ch) (t : TileId) (b : Bank) (s : State) : State :=
  if (grantOf (tile s c t) b).isSome then s
  else match bankBest s c t b with
    | none => s
    | some q =>
      let s := refreshStarve c (modTile c t (dropAsk b q.who) s)
      match q.who with
      | .flow n => modTile c t (setGrant b (some ⟨n, none, 0⟩)) s
      | .scrub => scrubGo c t s
      | .mend arr row => mendNow c t arr row s
      | .fetch _ => s
      | w => if stepWaits (ch s c) w then modTile c t (setGrant b (some ⟨w.holder, none, 0⟩)) s else s
/-- BANK_PORT_GRANT (R232). -/
def execBankPortGrant (c : Ch) (t : TileId) (b : Bank) (s : State) : Host.Outcome State Fault Refusal :=
  .next (if enginesRun s c then bankGrantAct c t b s else s)

/-- A background step has the grant, or ranks first at a free port. -/
def stepGranted (s : State) (c : Ch) (t : TileId) (b : Bank) (w : BankWho) : Bool :=
  match grantOf (tile s c t) b with
  | some g => g.ent == w.holder
  | none => (bankBest (askPort c t b w w.cls (ch s c).age s) c t b).any (·.who == w)
/-- A background step has its access: its grant or its request at the port is used up. -/
def useGrant (c : Ch) (t : TileId) (b : Bank) (w : BankWho) (s : State) : State :=
  if (grantOf (tile s c t) b).isSome then modTile c t (setGrant b none) s
  else if (reqsOf (tile s c t) b).any (·.who == w) then refreshStarve c (modTile c t (dropAsk b w) s)
  else s
/-- An access of a maintenance or reclaim step through a bank's port, at class BACKGROUND, or of a recovery's rewrite, at class
RECOVERY (R231, R232): it is made once the port is granted; till then the step waits with its request raised. One grant serves
one step (DEDUCED, assumption 95). -/
def withPort (c : Ch) (t : TileId) (b : Bank) (w : BankWho) (f : State → State) (s : State) : State :=
  if stepGranted s c t b w then f (useGrant c t b w s)
  else askPort c t b w w.cls (ch s c).age s

-- ## Scrub steps

/-- IN_SCRUB.INTERVAL as applied (Table 12-8). -/
def scrubInterval (s : State) (c : Ch) : Nat := atLeast1 (cfC s c 0xC 0x48 0 16)
/-- A tile's scrubber has no request at a bank port, and its interval has passed. -/
def scrubDue (s : State) (c : Ch) (t : TileId) : Bool :=
  decide ((tile s c t).scrubAt + scrubInterval s c ≤ s.tick) &&
    !((tile s c t).sfReqs ++ (tile s c t).lcReqs).any (·.who == .scrub)
/-- The tile's scrubber raises its request (R319); a port that is free and has none better grants it at once. -/
def scrubTile (c : Ch) (t : TileId) (s : State) : State :=
  if !scrubDue s c t then s
  else
    let b := scrubBank (scrubRow (tile s c t).scrubPos).1
    let s := askPort c t b .scrub clsScrub (ch s c).age (modTile c t (fun x => { x with scrubAt := s.tick }) s)
    if (bankBest s c t b).any (·.who == .scrub) then bankGrantAct c t b s else s

/-- A read of a block of a copy of the flow store by no fetch (R221). -/
def readStore (c : Ch) (copy row : Nat) (s : State) : State :=
  let key := rowKey (7 + copy) 0 row
  if copy = 0 then fetchRow c row s
  else match rowOutcome (ch s c) key with
    | .good => s
    | .mended w b => ev c 0x33 (some 0) {} (correctable c 4 none (rowPlanted (ch s c) key) (modCh c (mendRow key w b) s))
    | .bad =>
      let planted := rowPlanted (ch s c) key
      let s := uncorrectable c 4 0 row 6 0 planted s
      if rowOutcome (ch s c) (rowKey 7 0 row) == .bad then
        let p0 := rowPlanted (ch s c) (rowKey 7 0 row)
        fenceAs c .flowStore (planted || p0) (uncorrectable c 4 0 row 6 0 p0 s)
      else
        let s := fetchRow c row s
        let ws := rowWords (ch s c) 7 0 row
        secondFault c planted (ev c 0x33 (some 1) {}
          (modCh c (fun k => (List.range 8).foldl (fun k w => putMem 8 0 row w (ws.getD w 0) k) k) s))
/-- A step of a channel's scrubber: one word group of the queue memories, or one block of a copy of the flow store. -/
def scrubChan (c : Ch) (s : State) : State :=
  if s.tick < (ch s c).scrubQAt + scrubInterval s c then s
  else
  let p := (ch s c).scrubQ
  let s := ev c 0x4D none {} (modCh c (fun k => { k with scrubQ := (p + 1) % 10240, scrubQAt := s.tick }) s)
  if p < 8192 then forEach (List.range 8) (fun w s => takeQWord c p w s) s
  else readStore c ((p - 8192) / 1024) ((p - 8192) % 1024) s

/-- The journal scrubber's interval, which no register gives: the reset INTERVAL (DESIGN CHOICE, assumption 69). -/
def jrnInterval : Nat := 16
/-- A step of the journal's scrubber: one group of eight words, two slots. -/
def scrubJournal (s : State) : State :=
  let p := s.jrnScrub
  if s.tick < s.jrnScrubAt + jrnInterval then s
  else forEach (List.range 8) (fun w s => (takeJWord (2 * p + w / 4) (w % 4) s).1)
    { s with jrnScrub := (p + 1) % 32768, jrnScrubAt := s.tick }

/-- The channel's scrubbers run (R319): SCRUB_EN, and the channel in service and not fenced for a cause. -/
def scrubs (s : State) (c : Ch) : Bool := enginesRun s c && cfC s c 0xC 0x40 0 1 == 1
/-- SCRUB_STEP (R319). -/
def execScrubStep (who : Scrubber) (s : State) : Host.Outcome State Fault Refusal :=
  .next (match who with
    | .tile c t => if scrubs s c then scrubTile c t s else s
    | .chan c => if scrubs s c then scrubChan c s else s
    | .journal => if running s then scrubJournal s else s)

end Sys2Proof.Machine
end

