-- ==== Sys2Proof/Machine/Recovery.lean ====
section
/-! DEFINITION. Fault recovery and dead agents (13): engine failover, shadow rebuild, ring retirement and broadcast
invalidation as the stewards run them, rollback and the watchdog (R329 to R339), the death of an agent (R340, R341) and the
reclaim walk (R342, R343), the snoop timeout (R281), DECLARE_DEAD and ADMIT (R344, R454). -/

namespace Sys2Proof.Machine

/-- RC_COUNT of a channel. -/
def rcCount (c : Ch) : Nat := addrC c 0xD 0x58
/-- The action the stewards run. -/
def runningAction (s : State) (c : Ch) : Option Action := if enginesRun s c then (ch s c).action else none

-- ## Engines (R332, R334)

/-- The inputs of the next microstep of a running flow are present (R332). -/
def inputsPresent (s : State) (c : Ch) (t : TileId) (n : Nat) (e : Entry) : Bool :=
  let x := tile s c t
  !(x.sfReqs ++ x.lcReqs).any (·.who == .flow n) && !rowsLost x t n && inputsMet s c t n e
/-- ENG_WATCH as applied (Table 13-4). -/
def engWatch (s : State) (c : Ch) : Nat := max 4 (cfC s c 0xD 0x40 16 8)
/-- The engine's flow has its inputs and has committed nothing for ENG_WATCH ticks of having them. -/
def watchDue (s : State) (c : Ch) (t : TileId) (odd : Bool) : Bool :=
  match stepReady s c t odd with
  | none => false
  | some (n, e) => inputsPresent s c t n e && decide (engWatch s c ≤ e.watch)
/-- The engine watchdog at the end of a tick (R332): it counts the ticks that find the inputs present, from the last on that did
not. -/
def watchEngine (c : Ch) (t : TileId) (odd : Bool) (s : State) : State :=
  match stepReady s c t odd with
  | none => s
  | some (n, e) => modEntry c t n (fun x => { x with watch := if inputsPresent s c t n e then x.watch + 1 else 0 }) s
/-- The engine watchdogs of a channel at the end of a tick. -/
def watchTick (c : Ch) (s : State) : State :=
  forEach allTiles (fun t s => forEach [false, true] (fun odd s => watchEngine c t odd s) s) s
/-- ENGINE_WATCHDOG: the checks of R332. The duplicate next-address unit or the residue check of an engine fails, and the microstep
does not commit; or the engine watchdog runs out. -/
def execEngineWatchdog (c : Ch) (t : TileId) (x : EngineCheck) (s : State) : Host.Outcome State Fault Refusal :=
  .next (if (x.check && (stepReady s c t x.odd).isSome) || watchDue s c t x.odd then engineFault c t x.odd s else s)

/-- The failover of R334: FAILED is set, the flows of the tile go to the sibling; with no sibling the channel is fenced. -/
def failover (c : Ch) (t : TileId) (odd : Bool) (s : State) : State :=
  let flows := ((tile s c t).ents.filter fun x => hasFlow x.2 && !x.2.ended).length
  let s := modTile c t (fun x =>
    if odd then { x with fail1 := true, fault1 := false } else { x with fail0 := true, fault0 := false }) s
  if engineUp s c t (!odd) then
    let s := record c 8 2 0x14 [BitVec.ofNat 64 (2 * t.val + odd.toNat + flows * 2 ^ 5)] false s
    endAction c (ev c 0x51 (some 0) (occTile t) (ctAdd (rcCount c) 0 16 1 s))
  else endAction c (fenceFor c .engines s)
/-- ENGINE_FAILOVER (R334). -/
def execEngineFailover (c : Ch) (t : TileId) (odd : Bool) (s : State) : Host.Outcome State Fault Refusal :=
  .next (if runningAction s c == some (.failover t odd) then failover c t odd s else s)

/-- A row of the shadow store does not read (R333). -/
def shadowLost (x : Tile) (ctxArray : Bool) (row : Nat) : Bool := x.shadowBad.contains (ctxArray, row)
/-- The rebuild of a row (R333): the array's from the shadow, or the shadow's from the array; a row that neither gives fences the
channel. -/
def rebuildRow (c : Ch) (t : TileId) (ctxArray : Bool) (row : Nat) (s : State) : State :=
  let arr := if ctxArray then 6 else 5
  let planted := ((overOf (tile s c t) t arr row).getD ⟨[], 0, 0, false, []⟩).planted
  if shadowLost (tile s c t) ctxArray row && overOutcome (tile s c t) t arr row == .bad then
    endAction c (fenceAs c .tracker planted s)
  else endAction c (ev c 0x51 (some 3) (occTile t) (modTile c t (fun y =>
    if shadowLost y ctxArray row then { y with shadowBad := y.shadowBad.filter (· != (ctxArray, row)) }
    else { y with overlay := Tab.drop y.overlay (rowKey arr t row) }) s))
/-- SHADOW_REBUILD (R333): the row that the stewards are to rebuild is rebuilt. `x.lost` says that the shadow's words of the row
are found uncorrectable; where the row is not being rebuilt yet the stewards are asked to. -/
def execShadowRebuild (c : Ch) (t : TileId) (ctxArray : Bool) (x : ShadowRow) (s : State) :
    Host.Outcome State Fault Refusal :=
  let s' := if x.lost && !shadowLost (tile s c t) ctxArray x.row then
      modTile c t (fun y => { y with shadowBad := (ctxArray, x.row) :: y.shadowBad }) s
    else s
  .next (if runningAction s c == some (.rebuild t ctxArray x.row) then rebuildRow c t ctxArray x.row s'
    else if enginesRun s c && x.lost then askAction c (.rebuild t ctxArray x.row) false s'
    else s)

-- ## Stewards (R329 to R331)

/-- A rollback: both stewards reload the last checkpoint; it is counted, with the number of disagreements of the step in hand. -/
def rollback (c : Ch) (n : Nat) (s : State) : State :=
  let s := modCh c (fun k => { k with
    action := k.action.bind fun _ => k.ckpt[0], disagreed := n }) s
  ev c 0x51 (some 1) {} (ctAdd (rcCount c) 16 16 1 s)
/-- The self-test of both stewards (R330). -/
def selfTest (c : Ch) (run : StewardRun) (s : State) : State :=
  let s := ev c 0x51 (some 2) {} s
  match run.pass0, run.pass1 with
  | true, true => rollback c 2 s
  | false, false => endAction c (fenceFor c .steward s)
  | p, _ =>
    let s := modCh c (fun k => { k with
      simplex := true, stewardOff := p, disagreed := 0 }) s
    record c 8 3 0x18 [BitVec.ofNat 64 p.toNat] false s
/-- The stewards' outputs for the step in hand disagree (R329); `agree` says how the rerun ends. A third disagreement
fences the channel. -/
def disagree (c : Ch) (run : StewardRun) (n : Nat) (s : State) : State :=
  if n = 2 then endAction c (fenceFor c .steward s)
  else
    let s := rollback c 0 s
    if run.agree then s else selfTest c run s
/-- STEWARD_ROLLBACK (R329, R330): it happens while both stewards run an action, or the background part of one. -/
def execStewardRollback (c : Ch) (run : StewardRun) (s : State) : Host.Outcome State Fault Refusal :=
  .next (if enginesRun s c && !(ch s c).simplex && recovering (ch s c) then disagree c run (ch s c).disagreed s else s)

/-- WATCHDOG as applied (Table 13-4). -/
def recoveryWatch (s : State) (c : Ch) : Nat := max 0x64 (cfC s c 0xD 0x40 0 16)
/-- No checkpoint has been written for WATCHDOG ticks while a recovery action runs: the stewards', or the background part of a
broadcast, which RC_ST.ACTIVE shows alike (R331, Table 13-6). -/
def recoveryLate (s : State) (c : Ch) : Bool :=
  enginesRun s c && decide ((ch s c).ckptAt + recoveryWatch s c ≤ s.tick) && recovering (ch s c)
/-- RECOVERY_WATCHDOG (R331). -/
def execRecoveryWatchdog (c : Ch) (s : State) : Host.Outcome State Fault Refusal :=
  .next (if recoveryLate s c then endAction c (fenceFor c .watchdog s) else s)

-- ## Rings (R335)

/-- A flit of a retired ring enters the detour of its route (Table 13-2), handed to its stop by `put`. -/
def reroute (put : Nat → Nat → Flit → Channel → Channel) (f : Flit) (k : Channel) : Channel :=
  let f := { f with laps := 0, turned := false }
  match f.cls with
  | .rcv => let r := rcvRoute k f.src f.dest; put r.1 r.2.1 { f with dest := r.2.2 } k
  | .out => let r := outRoute k f.src; put r.1 r.2.1 { f with dest := r.2.2 } k
  | _ => let r := inRoute k f.dest; put r.1 r.2 { f with src := stopId r.1 r.2 } k
/-- The stop of ring r at which a flit came onto it: that of its source, or the one where it turned (R270). -/
def entryStop (r : Nat) (f : Flit) : Nat :=
  match (List.range 5).find? fun i => stopId r i == f.src with
  | some i => i
  | none => 1 + (if r < 4 then f.src % 4 else if f.src < 16 then f.src / 4 else f.src - 16)
/-- How far a flit has come by the laps it has made. -/
def lapsOf (f : Flit) : Nat := if f.turned then f.laps + 1 else 0
/-- The flits in the replay buffers of ring r, those of one source in their original order (R335): what has come further on the
ring left before what follows it. -/
def replayFlits (r : Nat) (x : Ring) : List Flit :=
  (List.range 5).flatMap fun i =>
    ((List.range 5).flatMap fun d =>
      let p := x.stop ((i + 4 - d) % 5)
      (p.sent.map (·.1) ++ p.again).filter fun f => entryStop r f == i).mergeSort fun f g => lapsOf g ≤ lapsOf f
/-- Retire ring r: the flits of its replay buffers go onto the detour first, the others follow (R335). -/
def retireRing (r : Nat) (k : Channel) : Channel :=
  let x := k.ring r
  let k := if r < 4 then { k with xret := k.xret ||| (1#4 <<< r) } else { k with yret := k.yret ||| (1#4 <<< (r - 4)) }
  let k := k.setRing r { Ring.fresh r x.table with retired := true }
  let k := (replayFlits r x).foldr (fun f k => reroute handFirst f k) k
  (waitingFlits x).foldl (fun k f => reroute handTo f k) k
/-- The stewards retire the ring of a broken hop; a second ring of its kind fences the channel. -/
def ringRetire (c : Ch) (r : Nat) (s : State) : State :=
  if (if r < 4 then (ch s c).xret != 0 else (ch s c).yret != 0) then endAction c (fenceFor c .ring s)
  else
    let s := modCh c (retireRing r) s
    endAction c (ev c 0x51 (some 4) {} (record c 8 3 0x15 [BitVec.ofNat 64 r] false s))
/-- RING_RETIREMENT (R335). -/
def execRingRetirement (c : Ch) (r : Fin 8) (s : State) : Host.Outcome State Fault Refusal :=
  .next (if runningAction s c == some (.ringRetire r) then ringRetire c r s else s)

-- ## Broadcast invalidation (R336, R337)

/-- The data bits (word, bit) by which the candidates of a block differ from its stored content: none, or two bit positions of
the 584 that account for the row and column bits found (R336). -/
def flipSets (r : BitVec 8) (c : Word) : List (List (Nat × Nat)) :=
  [] :: match (List.range 8).filter r.getLsbD, (List.range 64).filter c.getLsbD with
    | [a, b], [x, y] => [[(a, x), (b, y)], [(a, y), (b, x)]]
    | [], [x, y] => (List.range 8).map fun i => [(i, x), (i, y)]
    | [a, b], [] => (List.range 64).map fun j => [(a, j), (b, j)]
    | [a, b], [x] => [[(a, x)], [(b, x)]]
    | [a], [x, y] => [[(a, x)], [(a, y)]]
    | _, _ => []
/-- A candidate content. -/
def flipped (ws : List Word) (f : List (Nat × Nat)) : List Word :=
  (List.range 8).map fun i => f.foldl (fun w p => if p.1 = i then w ^^^ (1#64 <<< p.2) else w) (ws.getD i 0)
/-- The candidates of a row (R336). -/
def candidates (k : Channel) (key : Nat) : List (List Word) :=
  let m := Tab.getD k.rows key ⟨0, 0, false⟩
  let ws := (List.range 8).map fun w => Tab.word k.mem (key * 8 + w)
  (flipSets (m.row.setWidth 8) m.col).map (flipped ws)

/-- A recovery pair: line, agent, and whether the entry records the agent as owner. -/
abbrev Pair := LAddr × AgentId × Bool
/-- The pairs of one entry (R336); dead and non-caching agents are left out. -/
def pairsOf (k : Channel) (c t set : Nat) (v : SlotV) : List Pair :=
  let ok (a : AgentId) : Bool := caches k a && !agentDead k a
  match v with
  | .cirrus tag d _ _ => (d.agents.filter ok).map fun a => (cirrusLine c t set tag, a, d.owner == some a)
  | .stratus tag o m _ _ =>
    if ok o then ((List.range 64).filter m.getLsbD).map fun j => (stratusLine c t set tag j, o, true) else []
  | _ => []
/-- The pairs of one candidate of slot row `row`: the four slots of the block, a continuation not read as a slot. -/
def slotPairs (k : Channel) (c t row : Nat) (ws : List Word) : List Pair :=
  let set := row / 4
  let slot (j : Nat) : BitVec 128 := ws.getD (2 * j + 1) 0 ++ ws.getD (2 * j) 0
  let wide (j : Nat) : Bool := (slot j).extractLsb' 0 2 == 1 && !(slot j).getLsbD 29 && (slot j).extractLsb' 30 2 == 2
  (List.range 4).flatMap fun j =>
    if slotRetired k t set (row % 4 * 4 + j) || (j % 2 == 1 && wide (j - 1)) then []
    else pairsOf k c t set (decodeSlot (slot j) (slot (j + 1)) (extWord k t set))
/-- The ways of the eight sets of an extension row that head wide entries. -/
def wideHeads (k : Channel) (t q : Nat) : List (Nat × Nat) :=
  (List.range 8).flatMap fun i => ((List.range 16).filter (headsWide k t (8 * q + i))).map fun w => (8 * q + i, w)
/-- The pairs of one candidate of extension row q. -/
def extPairs (k : Channel) (c t q : Nat) (ws : List Word) : List Pair :=
  (wideHeads k t q).flatMap fun x =>
    pairsOf k c t x.1 (decodeSlot (slotBits k t x.1 x.2) (slotBits k t x.1 (x.2 + 1)) (ws.getD (x.1 % 8) 0))
/-- A line whose pairs are dropped (R337, step 1): a flow of it has read its set, in a request's or in another's work (R181), or
has found the error itself, or a request of it waits. A head that has not read its set yet is no such flow. -/
def pairExempt (k : Channel) (l : LAddr) : Bool :=
  waiterFor k l || (entriesOn k.tiles[home l] l).any fun x =>
    if x.2.inChain then x.2.fetched || x.2.readAt.isSome || !x.2.head || x.2.clearSkyWrite else x.2.fetched
/-- Equal pairs of a sorted list as one. -/
def dedupPairs : List Pair → List Pair
  | [] => []
  | x :: r => match dedupPairs r with
    | [] => [x]
    | y :: r => if x.1 == y.1 && x.2.1 == y.2.1 then (x.1, x.2.1, x.2.2 || y.2.2) :: r else x :: y :: r
/-- The recovery pairs of a block, by line and agent. -/
def recoveryPairs (k : Channel) (c : Ch) (t : TileId) (ext : Bool) (row : Nat) : List Pair :=
  let all := (candidates k (rowKey (if ext then 1 else 0) t row)).flatMap fun ws =>
    if ext then extPairs k c t row ws else slotPairs k c t row ws
  dedupPairs ((all.filter fun p => !pairExempt k p.1).mergeSort fun x y =>
    x.1.toNat * 256 + x.2.1.toNat ≤ y.1.toNat * 256 + y.2.1.toNat)

/-- The block is rewritten with every slot invalid (R337, step 2); the wide entries of an extension block go with it, and the
extension word of a wide entry that a slot block held reads zero (R126). -/
def blankBlock (t : TileId) (ext : Bool) (row : Nat) (k : Channel) : Channel :=
  if ext then
    let k := (wideHeads k t row).foldl (fun k x => clearWay t x.1 x.2 k) k
    (List.range 8).foldl (fun k i => bumpSet t (8 * row + i) k) (zeroRow (rowKey 1 t row) k)
  else
    let set := row / 4
    let k := bumpSet t set (zeroRow (rowKey 0 t row) k)
    if rowOutcome k (rowKey 1 t (set / 8)) == .bad || extWord k t set == 0 || (List.range 16).any (headsWide k t set) then k
    else putExt t set 0 k

/-- The recovery begins: pairs found, block rewritten, and a background entry for its snoops (R337). -/
def broadcast (c : Ch) (t : TileId) (ext : Bool) (row : Nat) (s : State) : State :=
  let pairs := recoveryPairs (ch s c) c t ext row
  let planted := rowPlanted (ch s c) (rowKey (if ext then 1 else 0) t row)
  let start (s : State) : State :=
    modTile c t (fun x => { x with biRows := x.biRows ++ [(ext, row, planted)] }) (modCh c (blankBlock t ext row) s)
  match pairs with
  | [] => recoveryDone c t ext row 0 (endAction c (start s))
  | p :: _ =>
    let general := bgFree s c t (.recovery, p.1)
    let spare := decide (evictTaken (tile s c t) < evictMax s c)
    match (if general || spare then freeEntry (tile s c t) else none) with
    | none => modTile c t (fun x => { x with bgWaits := bgLess (ch s c) t (.recovery, p.1) ++ [(.recovery, p.1, false)] }) s
    | some n =>
      let e := { Entry.blank .background .recovery p.1 (ch s c).nextRid (ch s c).age (deadlineOf s c clsRecovery) with
        fetched := true, readyAt := s.tick, stamp := 2 * row + ext.toNat, fromEvict := !general
        snoops := pairs.map fun q => ⟨q.2.1, q.1, .inv, 0, false, false, 0, none, false, none, q.2.2, false, false⟩ }
      endAction c (openEntry c t n e (start s))
/-- BROADCAST_INVALIDATION (R337), through the snoop filter's port (R232), once the clear-sky updates of the tile have landed
(R180). -/
def execBroadcastInvalidation (c : Ch) (t : TileId) (ext : Bool) (row : Nat) (s : State) :
    Host.Outcome State Fault Refusal :=
  .next (if runningAction s c == some (.broadcast t ext row) && !landingIn s c t then
    withPort c t .sf .recovery (broadcast c t ext row) s else s)

-- ## Dead agents (R340, R341)

/-- A plan names an agent. -/
def Plan.names (p : Plan) (a : AgentId) : Bool :=
  p.before.agents.contains a || p.after.agents.contains a || p.snoops.any (·.1 == a)

/-- Packets for a dead agent are dropped at the gaskets and counted (R341). -/
def dropPackets (c : Ch) (a : AgentId) (s : State) : State :=
  let mine (l : List EgrPkt) : List EgrPkt := l.filter fun p => p.hdr.agent == a
  let s0 := modCh c (fun k => { k with
    sno := k.sno.filter fun (p : EgrPkt) => p.hdr.agent != a
    vrs := k.vrs.filter fun (p : EgrPkt) => p.hdr.agent != a
    dout := k.dout.filter fun (p : EgrPkt) => p.hdr.agent != a }) s
  forEach (mine (ch s c).dout) (dropOut c .dout) (forEach (mine (ch s c).vrs) (dropOut c .vrs) s0)

/-- The anchors of a dead agent are freed (R195). -/
def freeAnchors (c : Ch) (a : AgentId) (s : State) : State :=
  match Tab.get? (ch s c).anchors a.toNat with
  | none => s
  | some x =>
    let s := modCh c (fun k => { k with anchors := Tab.drop k.anchors a.toNat }) s
    let s := modTile c (tileN x.tile) (fun t => { t with waits := t.waits.filter (· != a) }) s
    bindNext c (tileN x.tile) s

/-- Every snoop outstanding or due to the agent takes its settlement (R341). -/
def settleAll (c : Ch) (a : AgentId) (s : State) : State :=
  forEach allTiles (fun t s => forEach (tile s c t).ents (fun (x : Nat × Entry) s =>
    forEach (x.2.snoops.filter fun p => p.agent == a && (p.ans.isNone || p.dataDue)) (fun p s =>
      modEntry c t x.1 (wake s.tick) (settleSnp c t x.1 p s)) s) s) s

/-- The reclaim walk of an agent starts, or joins the walk that runs at its current sets (R342). -/
def startWalk (a : AgentId) (k : Channel) : Channel :=
  { k with
    walkPos := if k.walks.isEmpty then Vector.replicate 16 0 else k.walkPos
    walks := k.walks ++ [⟨a, Vector.replicate 16 2048, 0, []⟩] }

/-- An agent becomes dead in one channel (R340). The tracker of a fenced channel stays as it is (R346). -/
def killIn (c : Ch) (a : AgentId) (s : State) : State :=
  let s := dropPackets c a (modCh c (fun k => startWalk a { k with life := Tab.put k.life a.toNat .reclaiming }) s)
  if (ch s c).cause != .none then s
  else
  let s := discardPlans c (fun e => e.agent == a || e.plan.any (·.names a)) (freeAnchors c a s)
  flushAcks c (forEach allTiles (replan c) (settleAll c a s))

/-- DECLARE_DEAD of the agent, if it is open. -/
def openDeath (s : State) (a : AgentId) : Option AgentOp := s.agentOps.find? fun (o : AgentOp) => o.agent == a && !o.admits
/-- With every walk of the agent ended it is DEAD, and its DECLARE_DEAD ends (R340, R454). -/
def settleDeath (a : AgentId) (s : State) : State :=
  if agentLifeB s a != .reclaiming || allCh.any fun c => (ch s c).walks.any fun (w : Walk) => w.agent == a then s
  else
    let s := { s with
      life := Tab.put s.life a.toNat .dead
      chans := s.chans.map fun k => { k with life := Tab.put k.life a.toNat .dead } }
    match openDeath s a with
    | none => s
    | some o =>
      jEnd o.seq .done 0 (min o.lines 0xFFFFFF)
        { s with agentOps := s.agentOps.filter fun (p : AgentOp) => p.seq != o.seq }

/-- An ADMIT that every channel has applied ends: the block-level STATE is LIVE. A channel that is not in service takes the
block-level copy when it returns. -/
def admitEnd (o : AgentOp) (s : State) : State :=
  let s := if o.died then s else { s with
    life := Tab.put s.life o.agent.toNat .live
    chans := s.chans.map fun k => { k with life := Tab.put k.life o.agent.toNat .live } }
  jEnd o.seq .done 0 0 { s with agentOps := s.agentOps.filter fun (p : AgentOp) => p.seq != o.seq }
/-- The ADMITs that every channel has applied end at the edge that ends the tick (R454, R475). -/
def admitEnds (s : State) : State := forEach (s.agentOps.filter fun o => o.admits && o.waiting == 0) admitEnd s

/-- An ADMIT of the agent is open, and the agent has not died since every channel applied it. -/
def openAdmit (s : State) (a : AgentId) : Option AgentOp :=
  s.agentOps.find? fun (o : AgentOp) => o.agent == a && o.admits && !o.died
/-- An ADMIT that has not been applied everywhere ends with CONFLICT when its agent dies again (R454); one that has been ends at
the tick's edge, as it would have (R475). -/
def conflictAdmit (a : AgentId) (s : State) : State :=
  match openAdmit s a with
  | none => s
  | some o =>
    if o.waiting == 0 then { s with agentOps := s.agentOps.map fun (p : AgentOp) => if p.seq = o.seq then { p with died := true } else p }
    else jEnd o.seq .failed 4 0 { s with
      agentOps := s.agentOps.filter fun (p : AgentOp) => p.seq != o.seq
      chans := s.chans.map fun k => { k with pendq := k.pendq.filter (· != .admission a o.seq) } }

/-- An agent dies (R340): it is RECLAIMING, and in every channel that is ON, DRAINING or QUIESCED it is dead at once. An agent
already dead stays so, unless an ADMIT of it is open. -/
def declareDead (a : AgentId) (s : State) : State :=
  if agentLifeB s a != .live && (openAdmit s a).isNone then s
  else
    let s := conflictAdmit a s
    let s := { s with life := Tab.put s.life a.toNat .reclaiming }
    settleDeath a (forEach (allCh.filter (serving s)) (fun c s => killIn c a s) s)

/-- A snoop has waited TMO ticks (R281). -/
def snoopLate (s : State) (c : Ch) (h : Tag) (a : AgentId) (l : LAddr) : Option Entry :=
  if !serving s c || discards s c then none
  else match tagged (ch s c) h with
    | none => none
    | some (t, n, e) =>
      if e.snoops.any fun p => p.agent == a && p.laddr == l && (p.out || p.dataDue) && timed (ch s c) s.pclk t n p &&
          decide (p.sentAt + ringTmo s c ≤ s.tick)
      then some e else none
/-- SNOOP_TIMEOUT (R281): counted, recorded, and the agent declared dead. -/
def execSnoopTimeout (c : Ch) (home : Tag) (agent : AgentId) (laddr : LAddr) (s : State) :
    Host.Outcome State Fault Refusal :=
  .next (match snoopLate s c home agent laddr with
    | none => s
    | some e => declareDead agent
        (countTimeout c (tagTile home) 0 (occTag (ch s c) home laddr) (record c 2 3 0x05 [subject laddr agent e.inst] false s)))

-- ## The reclaim walk (R342, R343)

/-- The agents whose walk has still to visit the tile's current set. -/
def walkers (k : Channel) (t : TileId) : List AgentId := (k.walks.filter fun w => 0 < w.left[t]).map (·.agent)
/-- The first entry of a set that records one of the agents and has to change, with its line (R342). -/
def reclaimTarget (k : Channel) (c t set : Nat) (as : List AgentId) : Option (Nat × SlotV × LAddr) :=
  (List.range 16).findSome? fun w =>
    match slotAt k t set w with
    | .cirrus tag (.s sh f) i r =>
      if as.any fun a => (sh.exact && sh.has a) || f == some a then
        some (w, .cirrus tag (.s sh f) i r, cirrusLine c t set tag) else none
    | .cirrus tag (.x o) i r => if as.contains o then some (w, .cirrus tag (.x o) i r, cirrusLine c t set tag) else none
    | .stratus tag o m i r =>
      if as.contains o then
        some (w, .stratus tag o m i r, stratusLine c t set tag (((List.range 64).find? m.getLsbD).getD 0))
      else none
    | _ => none

/-- A line owned by a dead agent (R342): held by a background entry, written to memory as poison, its frame made invalid. -/
def reclaimOwned (c : Ch) (t : TileId) (o : AgentId) (l : LAddr) (dir : Channel → Channel) (s : State) : State :=
  match openBackground c l .reclaim s with
  | (s, none) => s
  | (s, some n) =>
    let s := modEntry c t n (fun x => { x with fetched := true, readyAt := s.tick }) s
    let s := modCh c (fun k => dir (spoilFills (fun _ m => m.laddr == l) k)) (sendMemWr c t n l 0 true 0 s)
    let s := readTags c t (lcSet l) s
    let s := match frameOf (ch s c) l with
      | some w =>
        let s := if (tagAt (ch s c) t (lcSet l) w).pf then ev c 0x39 (some 2) (occTile t) s else s
        discardPlans c (·.laddr == l) (modCh c (putTag t (lcSet l) w TagE.none) s)
      | none => s
    ev c 0x54 none (occTile t) (notePoison c t o l s)

/-- What the walk does to one line of an entry (R132, R342); it waits for a line that is held, and for the line-cache port where
the line has a frame to lose. -/
def reclaimLine (c : Ch) (t : TileId) (set : Nat) (as : List AgentId) (x : Nat × SlotV × LAddr) (s : State) : State :=
  if openLine (ch s c) x.2.2 then s
  else
    let step (s : State) : State := ev c 0x51 (some 6) (occTile t) s
    let lose (f : State → State) : State :=
      if (frameOf (ch s c) x.2.2).isSome then withPort c t .lc .reclaim (fun s => replan c t (step (f s))) s else step (f s)
    match x.2.1 with
    | .cirrus _ (.s sh f) _ _ =>
      let d := as.foldl Dir.remove (.s sh f)
      let s := if x.2.1.isWide && !(SlotV.cirrus 0 d 0 false).isWide && d != .i then
        ev c 0x14 (some 2) (occTile t) s else s
      step (modCh c (rewrite x.2.2 d) s)
    | .cirrus _ (.x o) _ _ => lose (reclaimOwned c t o x.2.2 (clearWay t set x.1))
    | .stratus _ o m _ _ =>
      if m == 0 then step (modCh c (clearWay t set x.1) s) else lose (reclaimOwned c t o x.2.2 (clearMask x.2.2))
    | _ => s

/-- The lines that a walk has poisoned count for the agent's DECLARE_DEAD (R454). -/
def countWalk (w : Walk) (s : State) : State :=
  { s with agentOps := s.agentOps.map fun o =>
      if o.agent == w.agent && !o.admits then { o with lines := o.lines + w.lines } else o }
/-- A walk that has visited every set of every tile ends (R343): its open ranges and the walk-done record are written. -/
def walkDone (c : Ch) (w : Walk) (s : State) : State :=
  let s := forEach w.ranges (fun (r : Nat × (LAddr × Nat)) s => rangeRecord c w.agent r.2 s) s
  let s := record c 2 1 0x07 [BitVec.ofNat 64 (w.agent.toNat + w.lines % 2 ^ 24 * 2 ^ 8)] false s
  let s := ctAdd (rcCount c) 48 16 1 s
  let s := modCh c (fun k => { k with walks := k.walks.filter (·.agent != w.agent) }) s
  settleDeath w.agent (countWalk w s)
/-- The walk goes on to the next set of the tile. -/
def walkNext (c : Ch) (t : TileId) (s : State) : State :=
  let s := modCh c (fun k => { k with
    walkPos := k.walkPos.set t ((k.walkPos[t] + 1) % 2048)
    walks := k.walks.map fun w => { w with left := w.left.set t (w.left[t] - 1) } }) s
  let s := ev c 0x51 (some 6) (occTile t) s
  forEach ((ch s c).walks.filter fun w => w.left.toList.all (· == 0)) (walkDone c) s

/-- The rows of one set of the snoop filter. -/
def setRows (set : Nat) : List (Nat × Nat) := (List.range 4).map (fun m => (0, set * 4 + m)) ++ [(1, set / 8)]
/-- A step of the walk in a tile, with the snoop filter's port: bad blocks of the set are mended or sent to recovery first; then
one entry or line, or the next set. -/
def reclaimStep (c : Ch) (t : TileId) (s : State) : State :=
  let set := (ch s c).walkPos[t]
  let as := walkers (ch s c) t
  let s := mendRows c 0 t (setRows set) s
  match (setRows set).find? fun (r : Nat × Nat) => rowOutcome (ch s c) (rowKey r.1 t r.2) == .bad with
  | some r => dirBlock c t (r.1 == 1) r.2 0 s
  | none =>
    match reclaimTarget (ch s c) c t set as with
    | some x => reclaimLine c t set as x s
    | none => walkNext c t s
/-- RECLAIM_STEP (R342), once the clear-sky updates of the tile have landed. -/
def execReclaimStep (c : Ch) (t : TileId) (s : State) : Host.Outcome State Fault Refusal :=
  .next (if enginesRun s c && !(walkers (ch s c) t).isEmpty && !landingIn s c t then withPort c t .sf .reclaim (reclaimStep c t) s else s)

-- ## AG_CMD (R344, R454)

/-- The address of AG_CMD. -/
def agCmd : Nat := 0x5040
/-- Agent commands open (AG_ST.OPEN). -/
def agOpen (s : State) : Nat := s.agentOps.length
/-- The register's second open command for the same agent, or a seventeenth in the block, is busy (R454). -/
def agBusy (s : State) (a : AgentId) : Bool := decide (16 ≤ agOpen s) || s.agentOps.any fun (o : AgentOp) => o.agent == a

/-- DECLARE_DEAD. -/
def declareAct (ctx : Ctx) (a : AgentId) (v : Word) (s : State) : State :=
  if agBusy s a then busy agCmd s
  else if agentKindB s a = 0 || agentLifeB s a != .live then refuse agCmd s
  else
    let seq := s.jrnNext
    let s := jAccept ctx agCmd 0x030 16 v .running s
    respond 0 (declareDead a { s with agentOps := s.agentOps ++ [⟨seq, false, a, 0, 0, false⟩] })
/-- The adapter of the agent is monitored (R64). -/
def adEnabled (s : State) (k : Nat) : Bool := (appWord s (if k < 64 then 0x58 else 0x60)).getLsbD (k % 64)
/-- ADMIT is accepted (R344): the agent is DEAD in every channel, and its adapter is not lost. -/
def mayAdmit (s : State) (a : AgentId) : Bool :=
  agentLifeB s a == .dead && allCh.all (fun c => agentLife (ch s c) a != .reclaiming) &&
    !(adEnabled s (agentAdapter s a) && s.adLost.getLsbD (agentAdapter s a))
/-- Channels in service, as a mask. -/
def servingMask (s : State) : BitVec 16 :=
  allCh.foldl (fun m c => if (ch s c).pwr.serving then m ||| (1#16 <<< c.val) else m) 0
/-- ADMIT. -/
def admitAct (ctx : Ctx) (a : AgentId) (v : Word) (s : State) : State :=
  if agBusy s a then busy agCmd s
  else if !mayAdmit s a then refuse agCmd s
  else
    let seq := s.jrnNext
    let s := jAccept ctx agCmd 0x031 16 v .running s
    let s := { s with agentOps := s.agentOps ++ [⟨seq, true, a, servingMask s, 0, false⟩] }
    respond 0 (forEach (allCh.filter fun c => (ch s c).pwr.serving) (fun c s =>
      modCh c (fun k => { k with pendq := k.pendq ++ [.admission a seq] }) s) s)
/-- The register AG_CMD acts on a write (R454): an agent with an open command is busy, an OP above 0x1 is refused. -/
def agAct (ctx : Ctx) (v : Word) (s : State) : State :=
  let a : AgentId := v.extractLsb' 4 8
  match bits v 0 4 with
  | 0 => declareAct ctx a v s
  | 1 => admitAct ctx a v s
  | _ => if agBusy s a then busy agCmd s else refuse agCmd s
/-- DECLARE_DEAD (R340). -/
def execDeclareDead (ctx : Ctx) (agent : AgentId) (s : State) : Host.Outcome State Fault Refusal :=
  .next (hostCmd ctx agCmd (agAct ctx (BitVec.ofNat 64 (agent.toNat * 2 ^ 4))) s)

/-- ADMIT (R344). -/
def execAdmitAgent (ctx : Ctx) (agent : AgentId) (s : State) : Host.Outcome State Fault Refusal :=
  .next (hostCmd ctx agCmd (agAct ctx (BitVec.ofNat 64 (1 + agent.toNat * 2 ^ 4))) s)

/-- FENCE (R348). -/
def fenceAct (ctx : Ctx) (c : Ch) (v : Word) (s : State) : State :=
  let a := addrC c 0xD 0x48
  if cmOpen s a then busy a s
  else if bits v 0 2 ≠ 1 || !(ch s c).pwr.serving || (ch s c).cause != .none then refuse a s
  else respond 0 (fenceFor c .command (jAccept ctx a 0x106 c v .running s))
/-- FENCE (R348). -/
def execFence (ctx : Ctx) (c : Ch) (s : State) : Host.Outcome State Fault Refusal :=
  .next (hostCmd ctx (addrC c 0xD 0x48) (fenceAct ctx c 1) s)

end Sys2Proof.Machine
end

