-- ==== Sys2Proof/Machine/Queues.lean ====
section
/-! DEFINITION. Notification queues (15): the pop (R380 to R382), the flush (R384), and the move of a queue whose share has
changed (R385). Records are written by `record` (Ops). -/

namespace Sys2Proof.Machine

/-- What the host port checks of every read before the register's own rules (R41, R351); none: the read goes on. -/
def readGuard (s : State) (ctx : Ctx) (a : Nat) : Option State :=
  if !hpReady s then some s
  else if a % 8 ≠ 0 then some (decodeErr s)
  else
    match pageOf a with
    | none => some (decodeErr s)
    | some pg =>
      if pageDown s pg then some (unavail s)
      else if !mayRead s ctx pg.base then some (denied a s)
      else none

/-- A read of the register at address a that acts: the host guard, then the register's own rule. -/
def hostAct (ctx : Ctx) (a : Nat) (act : State → State) (s : State) : State :=
  match readGuard s ctx a with
  | some s' => s'
  | none => act s

-- ## Pop (R380 to R382)

/-- The four words of a pool slot, read through their code. -/
def slotReads (k : Channel) (slot : Nat) : List WordRead :=
  (List.range 4).map fun w => readQWord k (slot % 16384 / 2) (slot % 2 * 4 + w)
/-- What the reads of a slot have found, in word order. The record itself has left by then: what is written of a word that fails
may go into that very slot (R381). -/
def noteReads (c : Ch) (slot : Nat) (rs : List WordRead) (s : State) : State :=
  forEach ((List.range rs.length).zip rs) (fun (x : Nat × WordRead) s =>
    noteQWord c (slot % 16384 / 2) (slot % 2 * 4 + x.1) x.2 s) s

/-- The highest priority that holds a record. -/
def popPrio (q : Queue) : Option Nat := [3, 2, 1, 0].find? fun p => 0 < (q.at p).count

/-- Set the hold words of a queue. -/
def setHolds (w1 w2 w3 : Word) (q : Queue) : Queue := { q with hold1 := w1, hold2 := w2, hold3 := w3 }

/-- The pop (R380): the record leaves first, then what its read has found is recorded (R381); word 0 is returned with VALID, and
POISON where a word of the slot failed its code, past the record's length too (assumption 113): all four words are latched then
(R382). -/
def pop (c : Ch) (q : Nat) (s : State) : State :=
  let k := queueOf (ch s c) q
  if k.moving then respond (1#64 <<< 61) (modQueue c q (setHolds 0 0 0) s)
  else
    match popPrio k with
    | none => respond 0 (modQueue c q (setHolds 0 0 0) s)
    | some p =>
      let sh := share s c q p
      let b := k.at p
      let slot := sh.2 + b.rd % atLeast1 sh.1
      let rs := slotReads (ch s c) slot
      let w (n : Nat) : WordRead := rs.getD n (.good 0)
      let len := bits (w 0).value 56 2 + 1
      let poison := rs.any (·.poison)
      let held (n : Nat) : Word := if poison || decide (n < len) then (w n).value else 0
      let s := noteReads c slot rs (modQueue c q (fun x =>
        setHolds (held 1) (held 2) (held 3) (x.setSub p { b with rd := (b.rd + 1) % 8192 })) s)
      respond ((w 0).value ||| (1#64 <<< 63) ||| (if poison then 1#64 <<< 62 else 0)) s
/-- Q_POP (R380). -/
def execQPop (ctx : Ctx) (c : Ch) (q : Fin 256) (s : State) : Host.Outcome State Fault Refusal :=
  .next (hostAct ctx (queueAddr c q + 0x10) (pop c q) s)

-- ## Flush (R384)

/-- Discard the records of the selected priorities: the number discarded, LOST_p unchanged. -/
def flushSubs (prios : BitVec 4) (q : Queue) : Queue :=
  (List.range 4).foldl (fun q p => if prios.getLsbD p then q.setSub p { q.at p with rd := (q.at p).wr } else q) q
/-- The records a flush discards. -/
def flushCount (prios : BitVec 4) (q : Queue) : Nat :=
  (List.range 4).foldl (fun n p => if prios.getLsbD p then n + (q.at p).count else n) 0

/-- The register Q_CMD acts on a write (R384): held PENDING while the queue is MOVING. -/
def flushAct (ctx : Ctx) (c : Ch) (q : Nat) (v : Word) (s : State) : State :=
  let prios : BitVec 4 := v.extractLsb' 2 4
  let a := queueAddr c q + 0x40
  let k := queueOf (ch s c) q
  if k.flush.isSome then busy a s
  else if bits v 0 2 ≠ 1 || prios == 0 then refuse a s
  else
    let n := s.jrnNext
    let s := jAccept ctx a 0x108 c v (if k.moving then .pending else .accepted) s
    respond 0 (modQueue c q (fun x => { x with flush := some (n, prios) }) s)
/-- FLUSH of a queue (R384). -/
def execQueueFlush (ctx : Ctx) (c : Ch) (q : Fin 256) (prios : BitVec 4) (s : State) :
    Host.Outcome State Fault Refusal :=
  .next (hostCmd ctx (queueAddr c q + 0x40) (flushAct ctx c q (BitVec.ofNat 64 (1 + prios.toNat * 4))) s)

/-- The record boundary of an open flush (R384); a count of 16,384 does not fit DETAIL (assumption 112). -/
def flushBoundary (c : Ch) (q : Nat) (s : State) : State :=
  let k := queueOf (ch s c) q
  match k.flush with
  | none => s
  | some (n, prios) =>
    if k.moving then s
    else
      jEnd n .done 0 (flushCount prios k % 2 ^ 14)
        (modQueue c q (fun x => { flushSubs prios x with flush := none }) s)
/-- QUEUE_FLUSH_BOUNDARY (R384). -/
def execQueueFlushBoundary (c : Ch) (q : Fin 256) (s : State) : Host.Outcome State Fault Refusal :=
  .next (if serving s c then flushBoundary c q s else s)

-- ## Moves (R385)

/-- A word of a stored record as a move carries it: its value, and its damage where its code cannot mend it. -/
abbrev Carried := Word × (Word × BitVec 8)
/-- The words of the record in a pool slot as a move reads them. -/
def carryWords (k : Channel) (slot : Nat) : List Carried :=
  (List.range 4).map fun w =>
    let row := slot % 16384 / 2
    match readQWord k row (slot % 2 * 4 + w) with
    | .bad _ => (poolWord k slot w, Tab.getD k.qBad (row * 8 + (slot % 2 * 4 + w)) (0, 0))
    | r => (r.value, (0, 0))
/-- Write a carried record into a slot. -/
def putCarried (s : State) (c : Ch) (slot : Nat) (ws : List Carried) (k : Channel) : Channel :=
  let k := putSlot s c slot (ws.map (·.1)) k
  let row := slot % 16384 / 2
  { k with qBad := (List.range 4).foldl (fun b w =>
      match ws[w]? with
      | some (_, d) => if d = (0, 0) then b else Tab.put b (row * 8 + (slot % 2 * 4 + w)) d
      | none => b) k.qBad }

/-- The records a sub-buffer keeps on a change of its share, oldest first, and how many are lost (R385). -/
def keptRecords (k : Channel) (b : SubBuf) (old new : Nat × Nat) : List (List Carried) × Nat :=
  let n := b.count
  let keep := min n new.1
  ((List.range keep).map fun i => carryWords k (old.2 + (b.rd + (n - keep) + i) % atLeast1 old.1), n - keep)

/-- The move of a sub-buffer (R385): its priority, its first new slot, the records it keeps, and how many it loses. -/
structure SubMove where
  prio : Nat
  base : Nat
  kept : List (List Carried)
  lost : Nat
  deriving DecidableEq, Repr
/-- The moves of the sub-buffers of queue q whose share changes from the old words to the new ones (R385). -/
def movesOf (k : Channel) (q : Nat) (cfg base cfg' base' : Word) : List SubMove :=
  ((List.range 4).filter fun p => subShare cfg base p != subShare cfg' base' p).map fun p =>
    let x := keptRecords k ((queueOf k q).at p) (subShare cfg base p) (subShare cfg' base' p)
    ⟨p, (subShare cfg' base' p).2, x.1, x.2⟩
/-- Move sub-buffers of queue q: what they keep has been read from the pool as it was before any move (R385). -/
def moveQueue (c : Ch) (q : Nat) (ms : List SubMove) (s : State) : State :=
  if ms.isEmpty then s
  else
    let s := forEach ms (fun (x : SubMove) s =>
      let s := if x.lost = 0 then s else ctAddSat (queueAddr c q + 0x38) (16 * x.prio) 16 x.lost s
      let s := forEach ((List.range x.kept.length).zip x.kept)
        (fun (r : Nat × List Carried) s => modCh c (putCarried s c (x.base + r.1) r.2) s) s
      modQueue c q (fun y => y.setSub x.prio ⟨0, x.kept.length⟩) s) s
    modQueue c q (fun y => { y with moving := true }) s

/-- Empty a queue as RESET of its instance does (R410): every record goes, LOST_p becomes zero. A MOVING queue is emptied when
its move ends. -/
def emptyQueue (c : Ch) (q : Nat) (s : State) : State :=
  if (queueOf (ch s c) q).moving then modQueue c q (fun x => { x with emptyAfter := true }) s
  else { modQueue c q (flushSubs (~~~0)) s with ct := Tab.drop s.ct (queueAddr c q + 0x38) }

end Sys2Proof.Machine
end

