-- ==== Sys2Proof/Machine/Instances.lean ====
section
/-! DEFINITION. Tenant instances (16): holds as they bear on range commands (R372), instance commands and their ends (R400,
R401, R405 to R412), admission (R402, R403), save and restore (R408, R409), and work in flight (R399). -/

namespace Sys2Proof.Machine

-- ## Ranges and holds (R371, R372)

/-- Two naturally aligned ranges meet. -/
def overlaps (b1 : LAddr) (s1 : Nat) (b2 : LAddr) (s2 : Nat) : Bool :=
  b1.toNat / 2 ^ max s1 s2 == b2.toNat / 2 ^ max s1 s2
/-- A hold or ACQUIRE of another context covers part of the range; `all` names every line. A hold whose
lease has expired is lapsed before a command of the same tick (R373). -/
def heldByOther (s : State) (ctx : Ctx) (all : Bool) (base : LAddr) (size : Nat) : Bool :=
  s.holds.any fun h => h.2.owner != ctx && !(h.2.granted && decide (h.2.expiry ≤ s.tick)) && (all || overlaps h.2.base h.2.size base size)

/-- The range a job acts on, if it is a range command of a context (R372). -/
def jobRange (j : Job) : Option (Bool × LAddr × Nat) :=
  match j.kind with
  | .range _ all base size => some (all, base, size)
  | .retirePage p => some (false, p.setWidth 46 <<< 6, 6)
  | _ => none
/-- A range command of another context that meets the range is open (Table 14-8). -/
def rangeOpen (s : State) (ctx : Ctx) (base : LAddr) (size : Nat) : Bool :=
  (s.chans.toList.any fun k => k.jobs.any fun j => j.ctx != ctx &&
    (jobRange j).any fun r => r.1 || overlaps r.2.1 r.2.2 base size) ||
  s.instOps.any fun o => o.op == 3 && o.ctx != ctx && overlaps o.base o.size base size

-- ## Work in flight (R399)

/-- The instance has work in flight in a channel. -/
def workIn (k : Channel) (i : InstId) : Bool :=
  k.pwr.serving &&
    (decide (0 < trCount k i) || k.openReqs.any (fun q => q.inst == i && q.port.isSome) ||
      k.wexp.any (fun w => w.inst == i) || k.anchors.any fun a => a.2.inst == i)
/-- The instance has work in flight in some channel. -/
def workInFlight (s : State) (i : InstId) : Bool := s.chans.toList.any fun k => workIn k i

-- ## Admission (R402, R403)

/-- A value a strobe captured for an address, else the applied one. -/
def capWord (s : State) (caps : List (Nat × Word)) (a : Nat) : Word :=
  match caps.find? (·.1 == a) with
  | some x => x.2
  | none => appWord s a
/-- MIN of an instance as applied (R213), under captured values. -/
def minOf (s : State) (caps : List (Nat × Word)) (c i : Nat) : Nat :=
  let w := capWord s caps (addrC c 6 (0x40 + 8 * i))
  min (min 2560 (bits w 12 12)) (min 2560 (bits w 0 12))
/-- MIN_LIMIT of a channel (R402), under captured values. -/
def minLimit (s : State) (caps : List (Nat × Word)) (c : Nat) : Nat :=
  let rsv := min 32 (max 8 (bits (capWord s caps (addrC c 5 0x100)) 8 6))
  let evm := atLeast1 (bits (capWord s caps (addrC c 4 0x40)) 8 4)
  16 * (160 - rsv - evm - bits (capWord s caps (addrC c 5 0x40)) 0 4)
/-- The instance is not FREE in a channel: it counts in the channel's MIN_SUM (R402, R411). A channel out of service goes by the
block-level state. -/
def counted (s : State) (c i : Nat) : Bool :=
  (if serving s (chN c) then instState (ch s (chN c)) (BitVec.ofNat 8 i) else instStateB s (BitVec.ofNat 8 i)) != .free
/-- A CREATE of the instance has been admitted and not yet applied everywhere (R403). -/
def admitted (s : State) (i : Nat) : Bool := s.instOps.any fun o => o.op == 0 && o.inst.toNat == i && o.sync.isNone
/-- The sum of MIN of a channel over the instances of a set (R402), under captured values. -/
def minSum (s : State) (caps : List (Nat × Word)) (c : Nat) (among : Nat → Bool) : Nat :=
  (List.range 241).foldl (fun n i => if among i then n + minOf s caps c i else n) 0
/-- The channels in service where admitting instance i, with those admitted before it, would set MIN_OVER (R403). -/
def overIn (s : State) (caps : List (Nat × Word)) (i : InstId) : BitVec 16 :=
  allCh.foldl (fun m (c : Ch) =>
    let exceeds : Prop := minLimit s caps c < minSum s caps c fun j => j == i.toNat || counted s c j || admitted s j
    if serving s c && decide exceeds then m ||| (1#16 <<< c.val) else m) 0

-- ## Ends of instance commands (R412)

/-- An instance command ends: its entry, and its INSTANCE_EVENT records. -/
def instEnd (o : InstOp) (st : JState) (result detail : Nat) (s : State) : State :=
  let s := jEnd o.seq st result detail { s with instOps := s.instOps.filter fun (p : InstOp) => p.seq != o.seq }
  let w := BitVec.ofNat 64 (o.inst.toNat + o.op.toNat * 2 ^ 8 + o.seq % 2 ^ 48 * 2 ^ 12)
  forEach (allCh.filter fun c => (ch s c).pwr == .on) (fun c s =>
    let s := record c 11 1 0x1C [w] false s
    if o.op == 9 then s else record c (15 + o.inst.toNat) 1 0x1C [w] false s) s

/-- Set the block-level state of an instance and every channel's copy. FLUSHED clears on leaving QUIESCED for a state other
than FROZEN, and on leaving FROZEN (R407). -/
def setInst (i : InstId) (st : IState) (s : State) : State :=
  { s with
    ist := Tab.put s.ist i.toNat st
    chans := s.chans.map fun k => { k with ist := Tab.put k.ist i.toNat st }
    flushed := if st == .quiesced || st == .frozen then s.flushed else s.flushed.filter (· != i) }

/-- The state an instance command brings about when every channel has applied it (Table 16-2). -/
def instTarget (op : BitVec 4) : Option IState :=
  match op.toNat with
  | 0 | 2 | 5 => some .active
  | 9 => some .free
  | _ => none

/-- Every channel has applied an instance command (R401, R406, R410, R411). -/
def instDone (o : InstOp) (s : State) : State :=
  let s := match instTarget o.op with
    | some st => setInst o.inst st s
    | none => s
  let s := if o.op == 3 && o.flushed && instStateB s o.inst == .quiesced then
    { s with flushed := o.inst :: s.flushed.filter (· != o.inst) } else s
  instEnd o .done 0 (if o.op == 3 then o.lines % 2 ^ 17 else 0) s

/-- CREATE, RESUME and THAW end at the edge that ends the first tick on which every channel has applied (R401, R475). -/
def atEdge (o : InstOp) : Bool := o.op == 0 || o.op == 2 || o.op == 5
/-- Those that every channel has applied end. -/
def instEnds (s : State) : State :=
  forEach (s.instOps.filter fun o => atEdge o && o.waiting == 0 && o.sync.isNone) instDone s

/-- Channel c has applied an instance command, or will not take part; with no channel left it ends. -/
def instApplied (c : Ch) (seq lines : Nat) (s : State) : State :=
  match s.instOps.find? fun (o : InstOp) => o.seq == seq with
  | none => s
  | some o =>
    let o := { o with waiting := o.waiting &&& ~~~(1#16 <<< c.val), lines := o.lines + lines }
    let s := { s with instOps := s.instOps.map fun (p : InstOp) => if p.seq = seq then o else p }
    if o.waiting == 0 && o.sync.isNone && !atEdge o then instDone o s else s

/-- Ask every channel in service to apply a command of an instance at its next quiet point. -/
def askChannels (o : InstOp) (st : IState) (s : State) : State :=
  forEach (allCh.filter (serving s)) (fun c s =>
    modCh c (fun k => { k with pendq := k.pendq ++ [.inst o.inst st o.seq] }) s) s
/-- Open an instance command; one that no channel has to apply ends at once. -/
def openInst (o : InstOp) (s : State) : State :=
  let s := { s with instOps := s.instOps ++ [o] }
  if o.waiting == 0 && o.sync.isNone && o.op != 1 && !atEdge o then instDone o s else s

-- ## INST_CMD (R400, Table 16-2)

/-- The address of INST_CMD. -/
def instCmd : Nat := 0x6040
/-- An open QUIESCE of the instance ends FAILED, ABORTED when RESUME is accepted (Table 16-2). -/
def abortQuiesce (i : InstId) (s : State) : State :=
  match s.instOps.find? fun (o : InstOp) => o.inst == i && o.op == 1 with
  | none => s
  | some o => instEnd o .failed 3 0 s

/-- CREATE, RESUME and THAW (R401): with SYNC the entry is PENDING until a strobe of the group. -/
def activate (o : InstOp) (sync : Bool) (group : BitVec 5) (s : State) : State :=
  if sync then openInst { o with sync := some group } s
  else askChannels o .active (openInst { o with waiting := servingMask s } s)

/-- FLUSH (R406): a job in every channel in service. The range is the aligned one that holds BASE. -/
def flushInst (o : InstOp) (s : State) : State :=
  let o := { o with waiting := servingMask s, flushed := instStateB s o.inst == .quiesced }
  let s := forEach (allCh.filter (serving s)) (fun c s =>
    addJob c (.flush o.inst o.base o.size) o.seq o.ctx (fun _ => true)
      (modCh c (spoilFills fun _ m => inRange m.laddr o.base o.size) s)) s
  openInst o s

/-- Word 1 + c of an instance image (Table 16-3). -/
def saveWord (s : State) (c : Nat) (i : InstId) : Word :=
  BitVec.ofNat 64 (cfC s c 6 (0x40 + 8 * i.toNat) 0 12 + cfC s c 6 (0x40 + 8 * i.toNat) 12 12 * 2 ^ 12 +
    cfC s c 4 (0x78 + 8 * i.toNat) 0 20 * 2 ^ 24 + bits (appWord s (queueAddr (chN c) (15 + i.toNat))) 0 16 * 2 ^ 44)
/-- CRC-32C of the bytes of a list of words (R408). -/
def wordsCrc (ws : List Word) : BitVec 32 := crc32c (ws.flatMap fun w => bytesOf w.toNat 8)
/-- The image of an instance (R408, Table 16-3). -/
def saveImage (s : State) (i : InstId) (seq : Nat) : List Word :=
  let mask := servingMask s
  let w0 := BitVec.ofNat 64 (0x1640 + 0x11 * 2 ^ 16 + 2 ^ 24 + i.toNat * 2 ^ 32 + mask.toNat * 2 ^ 48)
  let ws := w0 :: (List.range 16).map (fun c => if mask.getLsbD c then saveWord s c i else 0) ++
    [BitVec.ofNat 64 (seq % 2 ^ 48)]
  ws ++ [(wordsCrc ws).setWidth 64]
/-- The applied INST_LOAD words. -/
def loadImage (s : State) : List Word := (List.range 19).map fun k => appWord s (0x6200 + 8 * k)
/-- RESTORE accepts the image for instance i (R409), but for the state of the instance and admission. -/
def imageFits (s : State) (i : InstId) : Bool :=
  let ws := loadImage s
  let w (n : Nat) : Word := ws.getD n 0
  bits (w 18) 0 32 == (wordsCrc (ws.take 18)).toNat && bits (w 0) 0 32 == 0x01111640 &&
    (List.range 16).all fun c => !(w 0).getLsbD (48 + c) || bits (w (1 + c)) 0 60 == (saveWord s c i).toNat

/-- RESET of an instance (R410): its queue is emptied in every channel; in one out of service that leaves its LOST_p to clear. -/
def resetInst (o : InstOp) (s : State) : State :=
  let moving := allCh.foldl (fun m c =>
    if serving s c && (queueOf (ch s c) (15 + o.inst.toNat)).moving then m ||| (1#16 <<< c.val) else m) 0
  openInst { o with waiting := moving }
    (forEach allCh (fun c s => emptyQueue c (15 + o.inst.toNat) s) s)

/-- The state condition of an operation (Table 16-2). -/
def instMay (s : State) (op : Nat) (i : InstId) (sync : Bool) : Bool :=
  let st := instStateB s i
  match op with
  | 0 => st == .free && (sync || overIn s [] i == 0)
  | 1 => st == .active
  | 2 => st == .quiescing || st == .quiesced
  | 3 => true
  | 4 => st == .quiesced && s.flushed.contains i
  | 5 | 6 => st == .frozen
  | 7 => st == .free && imageFits s i && overIn s [] i == 0
  | _ => st == .quiesced || st == .frozen
/-- A second open command of the instance (RESUME may follow an open QUIESCE), or a seventeenth in the block (R400). -/
def instBusy (s : State) (op : Nat) (i : InstId) : Bool :=
  decide (16 ≤ s.instOps.length) ||
    s.instOps.any fun (o : InstOp) => o.inst == i && !(op == 2 && o.op == 1)

/-- The journal state an instance command enters with. -/
def instEntry (op : Nat) (sync : Bool) : JState :=
  if op = 1 ∨ op = 3 then .running
  else if sync && (op = 0 || op = 2 || op = 5) then .pending
  else .accepted

/-- The effect of an accepted instance command (Table 16-2). -/
def instEffect (o : InstOp) (sync : Bool) (group : BitVec 5) (s : State) : State :=
  match o.op.toNat with
  | 0 | 5 => activate o sync group s
  | 1 => askChannels o .quiescing (openInst o { unripe (.quiesce o.inst) s with ist := Tab.put s.ist o.inst.toNat .quiescing })
  | 2 => activate o sync group (abortQuiesce o.inst s)
  | 3 => flushInst o s
  | 4 => instEnd o .done 0 0 (setInst o.inst .frozen s)
  | 6 => instEnd o .done 0 0 { s with saved := saveImage s o.inst o.seq }
  | 7 => instEnd o .done 0 0 (setInst o.inst .frozen { s with flushed := s.flushed.filter (· != o.inst) })
  | 8 => resetInst o s
  | _ => askChannels o .free (openInst { o with waiting := servingMask s } s)

/-- INST_CMD acts on a written value. -/
def instAct (ctx : Ctx) (v : Word) (s : State) : State :=
  let op := bits v 0 4
  let i : InstId := v.extractLsb' 4 8
  let sync := v.getLsbD 17 && op != 3
  let base : LAddr := v.extractLsb' 18 46
  let size := bits v 12 6
  if instBusy s op i then busy instCmd s
  else if i = 0 ∨ 240 < i.toNat ∨ 9 < op ∨ (op = 3 ∧ 46 < size) then refuse instCmd s
  else if !instMay s op i sync || (op == 3 && heldByOther s ctx false base size) then refuse instCmd s
  else
    let seq := s.jrnNext
    let s := jAccept ctx instCmd (0x020 + op) 16 v (instEntry op sync) s
    let o : InstOp := ⟨seq, BitVec.ofNat 4 op, i, ctx, 0, none, base, size, 0, false⟩
    respond 0 (instEffect o sync (v.extractLsb' 12 5) s)

/-- The word of an instance command with GROUP and SYNC (Table 16-4). -/
def instWord (op : Nat) (i : InstId) (group : BitVec 5) (sync : Bool) : Word :=
  BitVec.ofNat 64 (op + i.toNat * 2 ^ 4 + group.toNat * 2 ^ 12 + sync.toNat * 2 ^ 17)
/-- A write of INST_CMD. -/
def instWrite (ctx : Ctx) (v : Word) (s : State) : State := hostCmd ctx instCmd (instAct ctx v) s

/-- CREATE (R401, R403). -/
def execCreate (ctx : Ctx) (inst : InstId) (group : BitVec 5) (sync : Bool) (s : State) :
    Host.Outcome State Fault Refusal := .next (instWrite ctx (instWord 0 inst group sync) s)
/-- QUIESCE (R405). -/
def execQuiesce (ctx : Ctx) (inst : InstId) (s : State) : Host.Outcome State Fault Refusal :=
  .next (instWrite ctx (instWord 1 inst 0 false) s)
/-- RESUME (R401). -/
def execResume (ctx : Ctx) (inst : InstId) (group : BitVec 5) (sync : Bool) (s : State) :
    Host.Outcome State Fault Refusal := .next (instWrite ctx (instWord 2 inst group sync) s)
/-- FLUSH (R406). -/
def execFlush (ctx : Ctx) (inst : InstId) (sizeLog2 : BitVec 6) (base : LAddr) (s : State) :
    Host.Outcome State Fault Refusal :=
  .next (instWrite ctx (BitVec.ofNat 64 (3 + inst.toNat * 2 ^ 4 + sizeLog2.toNat * 2 ^ 12 + base.toNat * 2 ^ 18)) s)
/-- FREEZE (R407). -/
def execFreeze (ctx : Ctx) (inst : InstId) (s : State) : Host.Outcome State Fault Refusal :=
  .next (instWrite ctx (instWord 4 inst 0 false) s)
/-- THAW (R401). -/
def execThaw (ctx : Ctx) (inst : InstId) (group : BitVec 5) (sync : Bool) (s : State) :
    Host.Outcome State Fault Refusal := .next (instWrite ctx (instWord 5 inst group sync) s)
/-- SAVE (R408). -/
def execSave (ctx : Ctx) (inst : InstId) (s : State) : Host.Outcome State Fault Refusal :=
  .next (instWrite ctx (instWord 6 inst 0 false) s)
/-- RESTORE (R409). -/
def execRestore (ctx : Ctx) (inst : InstId) (s : State) : Host.Outcome State Fault Refusal :=
  .next (instWrite ctx (instWord 7 inst 0 false) s)
/-- RESET of an instance (R410). -/
def execInstanceReset (ctx : Ctx) (inst : InstId) (s : State) : Host.Outcome State Fault Refusal :=
  .next (instWrite ctx (instWord 8 inst 0 false) s)
/-- REMOVE (R411). -/
def execRemove (ctx : Ctx) (inst : InstId) (s : State) : Host.Outcome State Fault Refusal :=
  .next (instWrite ctx (instWord 9 inst 0 false) s)

-- ## Ends

/-- The QUIESCE that may end: every channel in service treats the instance as frozen, and none has work in flight (R405); none
is open once RESUME with SYNC 1 has aborted it (assumption 114). -/
def quiescedDue (s : State) (i : InstId) : Option InstOp :=
  if workInFlight s i || s.chans.toList.any (fun k => k.pwr.serving && k.pendq.any fun p => match p with
      | .inst j _ _ => j == i
      | _ => false) then none
  else s.instOps.find? fun (o : InstOp) => o.inst == i && o.op == 1
/-- A quiescing instance has no work in flight (R405). -/
def quiescedOver (s : State) (i : InstId) : Option InstOp :=
  if running s && instStateB s i == .quiescing then quiescedDue s i else none
/-- INSTANCE_QUIESCED (R405): on the edge that ends the first such tick (R475). -/
def execInstanceQuiesced (i : InstId) (s : State) : Host.Outcome State Fault Refusal :=
  .next (match (if s.ripe.contains (.quiesce i) then quiescedOver s i else none) with
    | some o => instEnd o .done 0 0 (setInst i .quiesced s)
    | none => s)

/-- Recharge to instance 0 every entry of the snoop filter charged to i (R411). Each block of slots is read and checked as it is
gone through (R307): a bad bit is mended and counted, an uncorrectable block goes to its recovery. -/
def recharge (c : Ch) (i : InstId) (s : State) : State :=
  let rows := ((ch s c).rows.filter fun e => e.1 / 8192 / 16 == 0).map fun e => (e.1 / 8192 % 16, e.1 % 8192)
  let s := forEach rows (fun r s => scrubDir c (tileN r.1) 0 r.2 s) s
  modCh c (fun k => (allSlots k).foldl (fun k x =>
    if x.2.2.2.inst == i && rowOutcome k (rowKey 0 x.1 (slotRow x.2.1 x.2.2.1)) == .good then
      putSlotBits x.1 x.2.1 x.2.2.1 (slotBits k x.1 x.2.1 x.2.2.1 &&& ~~~((0xFF : BitVec 128) <<< 44)) k
    else k) k) s
/-- A channel applies a change of an instance's state at its quiet point (R398, R401, R411). -/
def applyInst (c : Ch) (i : InstId) (st : IState) (seq : Nat) (s : State) : State :=
  let s := modCh c (fun k => { k with ist := Tab.put k.ist i.toNat st }) s
  let s := if st == .free then emptyQueue c (15 + i.toNat) (recharge c i s) else s
  if st == .quiescing then s else instApplied c seq 0 s

/-- The copy of a moving queue ends (R385): a flush held behind it, PENDING till then, ends at the next record boundary (R384),
and an emptying that waited is done (R410). -/
def moveEnd (c : Ch) (q : Nat) (s : State) : State :=
  let k := queueOf (ch s c) q
  if !k.moving then s
  else
    let s := modQueue c q (fun x => { x with moving := false, emptyAfter := false }) s
    if !k.emptyAfter then s
    else
      let s := emptyQueue c q s
      match s.instOps.find? fun (o : InstOp) => o.op == 8 && 15 + o.inst.toNat == q with
      | some o => instApplied c o.seq 0 s
      | none => s
/-- QUEUE_MOVE_END (R385). -/
def execQueueMoveEnd (c : Ch) (q : Fin 256) (s : State) : Host.Outcome State Fault Refusal :=
  .next (if serving s c then moveEnd c q s else s)

end Sys2Proof.Machine
end

