-- ==== Sys2Proof/Machine/Image.lean ====
section
/-! DEFINITION. The flow-image loader (08 R226 to R230): the digest registers, IMG_CMD, the image written to IMG_DATA, and
the end of a load. -/

namespace Sys2Proof.Machine

/-- The address of IMG_DIGEST_k. -/
def imgDigestAddr (k : Nat) : Nat := 0xA040 + 8 * k
/-- The address of IMG_CMD. -/
def imgCmdAddr : Nat := 0xA070
/-- The address of IMG_DATA. -/
def imgDataAddr : Nat := 0xA078

/-- IMG_ST.DIGEST_SET (Table 8-22). -/
def digestSet (s : State) : Bool := (List.range 6).all fun k => (Tab.get? s.wo (imgDigestAddr k)).isSome
/-- The digest firmware has written. -/
def digestWritten (s : State) : List Word := (List.range 6).map fun k => Tab.word s.wo (imgDigestAddr k)

/-- A write of a digest register (R227, R356): the first is applied, later ones are rewrites. -/
def digestAct (ctx : Ctx) (a : Nat) (v : Word) (s : State) : State :=
  respond 0 (if (Tab.get? s.wo a).isSome then lockedWrite ctx a v s else { s with wo := Tab.put s.wo a v })
/-- IMG_DIGEST_k (R227). -/
def execImgDigest (ctx : Ctx) (k : Fin 6) (value : Word) (s : State) : Host.Outcome State Fault Refusal :=
  .next (hostCmd ctx (imgDigestAddr k) (digestAct ctx (imgDigestAddr k) value) s)

-- ## The image (R226, Table 8-7)

/-- Word n of the image received so far; `words` is newest first. -/
def Load.word (l : Load) (n : Nat) : Word := l.words.reverse.getD n 0
/-- N, the number of microwords the header gives. -/
def Load.nwords (l : Load) : Nat := bits (l.word 1) 32 16
/-- BUILD_ID, zero until its word has arrived. -/
def Load.build (l : Load) : Nat := bits (l.word 2) 0 32

/-- What the header check finds (Tables 8-7, 8-8); none: the header is valid. -/
def headerResult (l : Load) : Option Nat :=
  if bits (l.word 0) 0 32 ≠ 0x53554E4A ∨ bits (l.word 0) 32 16 ≠ 1 ∨ bits (l.word 1) 16 16 ≠ 0 ∨
      bits (l.word 1) 48 16 ≠ 0 ∨ bits (l.word 2) 32 32 ≠ 0 ∨
      ([3, 4, 5, 6, 7].any fun n => l.word n != 0) = true then some 1
  else if bits (l.word 0) 48 16 ≠ 0x1640 ∨ bits (l.word 1) 0 8 ≠ 0x11 ∨ bits (l.word 1) 8 8 ≠ 1 then some 2
  else if l.nwords < 64 ∨ 8192 < l.nwords ∨ l.nwords % 8 ≠ 0 then some 3
  else none

/-- The named channels of a mask. -/
def named (m : BitVec 16) : List Ch := allCh.filter fun c => m.getLsbD c

/-- Write microword i into both copies of the flow store of a channel. -/
def putMicroword (i : Nat) (v : Word) (k : Channel) : Channel :=
  putMem 8 0 (i / 8) (i % 8) v (putMem 7 0 (i / 8) (i % 8) v k)
/-- Microwords n up read as zero (R226); n is a multiple of 8. -/
def trimStore (n : Nat) (k : Channel) : Channel :=
  let gone (key : Nat) : Bool := (key / 8192 / 16 == 7 || key / 8192 / 16 == 8) && decide (n / 8 ≤ key % 8192)
  { k with mem := k.mem.filter (fun e => !gone (e.1 / 8)), rows := k.rows.filter fun e => !gone e.1 }

-- ## The end of a load (R229)

/-- A load ends with a result (Table 8-8). One whose header was accepted leaves the microwords past its N zero, however it ends
(R226). -/
def loadEnd (result : Nat) (s : State) : State :=
  match s.load with
  | none => s
  | some l =>
    let ok := result == 0
    let s := { s with
      load := none
      imgResult := BitVec.ofNat 8 result
      imgValid := if ok then s.imgValid ||| l.channels else s.imgValid &&& ~~~l.channels
      imgBuild := if ok then BitVec.ofNat 46 (l.build + l.nwords * 2 ^ 32) else s.imgBuild }
    let s := jEnd l.seq (if ok then .done else .failed) result l.build s
    forEach (named l.channels) (fun c s =>
      let s := if 8 ≤ l.count ∧ headerResult l = none then modCh c (trimStore l.nwords) s else s
      let s := if serving s c then ev c 0x34 (some result) {} s else s
      record c 3 2 0x08 [BitVec.ofNat 64 (result + l.build * 2 ^ 8)] false s) s

-- ## IMG_CMD and IMG_DATA (R228)

/-- A channel may be loaded: out of reset, powered, neither ON nor DRAINING. -/
def mayLoad (k : Channel) : Bool := k.pwr == .quiesced

/-- The register IMG_CMD acts on a write. -/
def imgCmdAct (ctx : Ctx) (v : Word) (s : State) : State :=
  let channels : BitVec 16 := v.setWidth 16
  if v.getLsbD 16 then
    if s.load.isNone then refuse imgCmdAddr s
    else
      let seq := s.jrnNext
      respond 0 (loadEnd 5 (jEnd seq .done 0 0 (jAccept ctx imgCmdAddr 0x010 16 v .accepted s)))
  else if s.load.isSome then busy imgCmdAddr s
  else if !digestSet s || channels == 0 || (named channels).any (fun c => !mayLoad (ch s c)) then refuse imgCmdAddr s
  else
    let seq := s.jrnNext
    respond 0 { jAccept ctx imgCmdAddr 0x010 16 v .running s with load := some ⟨seq, channels, [], 0⟩, imgSeq := seq }
/-- IMG_CMD (R228). -/
def execImgCmd (ctx : Ctx) (channels : BitVec 16) (s : State) : Host.Outcome State Fault Refusal :=
  .next (hostCmd ctx imgCmdAddr (imgCmdAct ctx (channels.setWidth 64)) s)
/-- IMG_CMD with ABORT (R228). -/
def execImgAbort (ctx : Ctx) (s : State) : Host.Outcome State Fault Refusal :=
  .next (hostCmd ctx imgCmdAddr (imgCmdAct ctx 0x10000) s)

/-- The next 8 bytes of the image: the header is checked at byte 63, microwords are written as they arrive, and the digest is
checked at the last byte. -/
def imageBeat (l : Load) (v : Word) (s : State) : State :=
  let n := l.count
  let l := { l with words := v :: l.words, count := n + 1 }
  let s := { s with load := some l }
  if n < 7 then s
  else if n = 7 then (match headerResult l with | some r => loadEnd r s | none => s)
  else
    let s := forEach (named l.channels) (fun c s => modCh c (putMicroword (n - 8) v) s) s
    if n + 1 < 8 + l.nwords then s
    else loadEnd (if imageDigest l.words.reverse == digestWritten s then 0 else 4) s
/-- The register IMG_DATA acts on a write. -/
def imgDataAct (v : Word) (s : State) : State :=
  match s.load with
  | none => refuse imgDataAddr s
  | some l => respond 0 (imageBeat l v s)
/-- IMG_DATA (R228, R229). -/
def execImgData (ctx : Ctx) (beat : Word) (s : State) : Host.Outcome State Fault Refusal :=
  .next (hostCmd ctx imgDataAddr (imgDataAct beat) s)

end Sys2Proof.Machine
end

