-- ==== Sys2Proof/Machine/Strobe.lean ====
section
/-! DEFINITION. Configuration changes (14 R355 to R361): which staged values a strobe or a page lock captures, what applying
them in a channel brings about, and the ends of strobes and locks. -/

namespace Sys2Proof.Machine

-- ## Pages and groups

/-- The page an address lies in begins at this address. -/
def baseOf (a : Nat) : Nat := a / 0x1000 * 0x1000
/-- The update group of the page of an address (R357). -/
def groupOf (s : State) (a : Nat) : Nat := bits (appWord s (baseOf a + 0x18)) 0 5
/-- The channel whose page holds an address. -/
def pageChan (a : Nat) : Option Nat := (pageOf a).bind Page.channel
/-- An entry of a match page or of the agent table, which every channel applies in a copy of its own (R397, R447). -/
def isTable (a : Nat) : Bool :=
  decide (0x5100 ≤ a ∧ a < 0x5500) || decide (0x10000 ≤ a ∧ a < 0x18000 ∧ 0x40 ≤ a % 0x1000)
/-- A match page or the agent table page. -/
def isTablePage (base : Nat) : Bool := decide (base = 0x5000) || decide (0x10000 ≤ base ∧ base < 0x18000)

/-- PG_CTL.LOCK of a page. -/
def pageLocked (s : State) (base : Nat) : Bool := (Tab.word s.wo (base + 0x10)).getLsbD 32
/-- An address holds a descriptor of the target gate, whose LK fields follow the region's lock bit (R303): its channel and
region. -/
def descriptorOf (a : Nat) : Option (Nat × Nat) :=
  match pageOf a with
  | some (.chan c 0xB) =>
    if 0x100 ≤ viewOff a ∧ viewOff a < 0x700 then some (c, (viewOff a - 0x100) % 0x300 / 0x18) else none
  | _ => none
/-- The LK fields of an address are frozen (R303, R355). -/
def lkFrozen (s : State) (a : Nat) : Bool :=
  match descriptorOf a with
  | some (c, n) => rgnLocked s c n
  | none => pageLocked s (baseOf a)
/-- A captured value as it is applied: frozen LK fields keep their frozen values (R355). -/
def withFrozen (s : State) (a : Nat) (v : Word) : Word :=
  let lk : Word := BitVec.ofNat 64 (regOf a).lk
  if lkFrozen s a then (v &&& ~~~lk) ||| (stgWord s a &&& lk) else v

/-- The staged values of every page of the groups of a mask (R358). Registers never staged hold their reset value, and are
applied so already. -/
def captured (s : State) (groups : BitVec 32) : List (Nat × Word) :=
  s.stg.filter fun e => groups.getLsbD (groupOf s e.1)

-- ## Applying values in a channel (R188, R256, R257, R278, R299, R385)

/-- Set applied values. -/
def putApp (vals : List (Nat × Word)) (s : State) : State :=
  { s with app := vals.foldl (fun (t : Tab Word) (e : Nat × Word) => Tab.put t e.1 (withFrozen s e.1 e.2)) s.app }
/-- Set a channel's copies of table entries. -/
def putCopy (c : Ch) (vals : List (Nat × Word)) (s : State) : State :=
  modCh c (fun k => { k with copy := vals.foldl (fun (t : Tab Word) (e : Nat × Word) =>
    if isTable e.1 then Tab.putWord t e.1 (withFrozen s e.1 e.2) else t) k.copy }) s

/-- A register of channel c differs between two states. -/
def changed (s s' : State) (a : Nat) : Bool := appWord s a != appWord s' a
/-- The change is a rule change (R299): TG_CTL, TG_DEFMAP or a descriptor of the bank in force. -/
def rulesChanged (s s' : State) (c : Ch) : Bool :=
  changed s s' (addrC c 0xB 0x40) || changed s s' (addrC c 0xB 0x48) ||
    (List.range 32).any fun n => (List.range 3).any fun j => changed s s' (rgnAddr c (activeBank (ch s c)) n j)
/-- The change discards run-ahead plans (R188): flow control, weights, locale, costs or the snoop filter's control. -/
def plansChanged (s s' : State) (c : Ch) : Bool :=
  ((List.range 50).any fun i => changed s s' (addrC c 3 (0x40 + 8 * i))) || changed s s' (addrC c 4 0x40)
/-- The queues of which Q_CFG or Q_BASE is among the values. -/
def queuesIn (c : Ch) (vals : List (Nat × Word)) : List Nat :=
  (List.range 256).filter fun q => vals.any fun e => e.1 == queueAddr c q || e.1 == queueAddr c q + 8

/-- Rings whose slot table has changed await their frame (R278). -/
def pendRings (s s' : State) (c : Ch) (k : Channel) : Channel :=
  (List.range 8).foldl (fun k r =>
    if changed s s' (addrC c 0xA (0x50 + 8 * r)) then k.setRing r { k.ring r with pend := some (k.ring r).step } else k) k
/-- Ways whose enable ends by LC_WAYOFF start their drain (R257), and ways whose count has reached the new limit are disabled
(R256). -/
def waysChanged (s0 : State) (c : Ch) (s : State) : State :=
  forEach allTiles (fun t s => relight c t (forEach (List.range 16) (fun w s =>
    let s := if (wayOff s c t).getLsbD w && !(wayOff s0 c t).getLsbD w then startWayDrain c t w s else s
    if 0 < Tab.getD (tile s c t).fails w 0 then wayFault c t w 0 false s else s) s)) s

/-- What a change of a channel's applied values from s0 brings about in the channel; a change of the gate's rules is taken
account of by the quiet point as a whole (R301). -/
def settleChange (c : Ch) (vals : List (Nat × Word)) (s0 s : State) : State :=
  let moves := (queuesIn c vals).map fun q =>
    (q, movesOf (ch s c) q (appWord s0 (queueAddr c q)) (appWord s0 (queueAddr c q + 8)) (appWord s (queueAddr c q))
      (appWord s (queueAddr c q + 8)))
  let s := forEach moves (fun (m : Nat × List SubMove) s => moveQueue c m.1 m.2 s) s
  let s := modCh c (pendRings s0 s c) s
  let s := if plansChanged s0 s c then discardPlans c (fun _ => true) s else s
  if vals.any fun e => pageChan e.1 == some c.val && e.1 / 0x1000 % 0x80 == 8 then waysChanged s0 c s else s

/-- The values of a list that lie on pages of channel c. -/
def ofChan (c : Ch) (vals : List (Nat × Word)) : List (Nat × Word) := vals.filter fun e => pageChan e.1 == some c.val
/-- The values of a list that lie on block-level pages. -/
def ofBlock (vals : List (Nat × Word)) : List (Nat × Word) := vals.filter fun e => pageChan e.1 == none

/-- Channel c applies captured values at its quiet point: those of its pages, and its copies of the tables (R359, R397). -/
def applyValues (c : Ch) (vals : List (Nat × Word)) (s : State) : State :=
  settleChange c (ofChan c vals) s (putCopy c vals (putApp (ofChan c vals) s))

-- ## Block-level values (R65, R360, R447)

/-- Partners whose monitoring begins are not lost, and their grace timer runs from this tick (R65). -/
def beginWatch (s0 s : State) : State :=
  { s with
    adLost := (List.range 128).foldl (fun m k =>
      if adEnabled s k && !adEnabled s0 k then m &&& ~~~(1#128 <<< k) else m) s.adLost
    mcLost := s.mcLost &&& ~~~((appWord s 0x78).setWidth 16 &&& ~~~(appWord s0 0x78).setWidth 16)
    adSince := (List.range 128).foldl (fun t k => if adEnabled s k && !adEnabled s0 k then Tab.put t k s.tick else t) s.adSince
    mcSince := (List.range 16).foldl (fun t c =>
      if (appWord s 0x78).getLsbD c && !(appWord s0 0x78).getLsbD c then Tab.put t c s.tick else t) s.mcSince }
/-- The block-level pages apply their values. -/
def applyBlock (vals : List (Nat × Word)) (s : State) : State := beginWatch s (putApp (ofBlock vals) s)

-- ## The ends of strobes and locks (R355, R360, R361)

/-- At the edge that ends the first tick on which no channel is left to apply it, a strobe ends (R360, R475): block-level pages
apply, and the entry is DONE. -/
def strobeEnd (s : State) : State :=
  match s.strobe with
  | none => s
  | some x =>
    if x.waiting != 0 then s
    else
      let s := applyBlock x.values { s with strobe := none, updApplied := x.applied, updSkipped := x.skipped }
      jEnd x.seq .done (if x.skipped == 0 then 0 else 1) x.skipped.toNat s
/-- Channel c has applied the running strobe, or is skipped. -/
def strobeBy (c : Ch) (skip : Bool) (s : State) : State :=
  match s.strobe with
  | none => s
  | some x =>
    let m : BitVec 16 := 1#16 <<< c.val
    if x.waiting &&& m == 0 then s
    else
      let x := { x with
        waiting := x.waiting &&& ~~~m
        applied := if skip then x.applied else x.applied ||| m
        skipped := if skip then x.skipped ||| m else x.skipped }
      let s := { s with strobe := some x }
      if skip then modCh c (fun k => { k with missed := k.missed ||| x.groups }) s else s

/-- The LK values of a page lock (R355): the page's listed staged values whose LK fields follow the page's lock; the other
fields of those registers are as they stand in the copy `cur`. -/
def lockValues (s : State) (cur : Nat → Word) (base : Nat) : List (Nat × Word) :=
  (s.stg.filter fun e => baseOf e.1 == base && (regOf e.1).lk != 0 && (descriptorOf e.1).isNone).map fun e =>
    let lk : Word := BitVec.ofNat 64 (regOf e.1).lk
    (e.1, (cur e.1 &&& ~~~lk) ||| (e.2 &&& lk))
/-- The lock's frozen values as they are applied now: other fields of the register keep their applied values. -/
def applyLock (base : Nat) (s : State) : State :=
  { s with app := (lockValues s (appWord s) base).foldl (fun (t : Tab Word) e => Tab.put t e.1 e.2) s.app }
/-- A lock is applied at its page and ends. -/
def lockEnd (x : LockOp) (s : State) : State :=
  jEnd x.seq .done 0 0 (applyLock x.page { s with locks := s.locks.filter fun (y : LockOp) => y.seq != x.seq })
/-- The locks of table pages that every channel has applied end at the edge that ends the tick (R355, R475). -/
def lockEnds (s : State) : State := forEach (s.locks.filter fun x => x.waiting == 0) lockEnd s
/-- Channel c has applied a page lock, or takes no part; with no channel left it ends, that of a table page at the tick's edge. -/
def lockBy (c : Ch) (seq : Nat) (s : State) : State :=
  match s.locks.find? fun (x : LockOp) => x.seq == seq with
  | none => s
  | some x =>
    let w := x.waiting &&& ~~~(1#16 <<< c.val)
    if w == 0 && !isTablePage x.page then lockEnd x s
    else { s with locks := s.locks.map fun (y : LockOp) => if y.seq = seq then { y with waiting := w } else y }
/-- The frozen values of a table page go into a channel's copies. -/
def copyLock (c : Ch) (page : Nat) (s : State) : State :=
  if isTablePage page then putCopy c (lockValues s (chTable (ch s c)) page) s else s
/-- A channel's part of a page lock at its quiet point: its copies of a table page's entries. -/
def lockAt (c : Ch) (page seq : Nat) (s : State) : State := lockBy c seq (copyLock c page s)
/-- The table values of the strobe and the page locks that are open, as a channel that returns to service takes them over the
block-level copy (DEDUCED, assumption 94): it has no request accepted under the old ones, and no quiet point of its own would bring
them after DONE (R355, R397). -/
def openTables (c : Ch) (s : State) : State :=
  let s := match s.strobe with
    | some x => putCopy c (x.values.filter fun e => isTable e.1) s
    | none => s
  forEach s.locks (fun (x : LockOp) s => copyLock c x.page s) s

end Sys2Proof.Machine
end

