-- ==== Sys2Proof/Machine/Power.lean ====
section
/-! DEFINITION. Resets and channel power (17): what each reset keeps and clears, how a channel leaves and enters service, the
power commands with their pending and running forms, and the events a transition waits for. -/

namespace Sys2Proof.Machine

-- ## What a reset leaves of a channel (R415, R258, R285, R318, R323, R387)

/-- A tile after a reset: a gated bank stays gated. -/
def wipedTile (c t : Nat) (old : Tile) : Tile := { Tile.fresh c t with gated := old.gated }
/-- A channel without its contents, in power state p. Its flow store, retirements, gate bank, levels in force and pace
readings stay; PCLK has to be measured again (R115). An open notice window is dropped (assumption 109). -/
def wiped (s : State) (c : Ch) (p : Pwr) (old : Channel) : Channel :=
  let store (key : Nat) : Bool := key / 8192 / 16 == 7 || key / 8192 / 16 == 8
  { Channel.fresh c with
    pwr := p
    lastDd := old.lastDd
    settled := old.settled
    loops := old.loops
    minNow := old.minNow
    thresh := old.thresh
    causeBaro := old.causeBaro
    mhz := old.mhz
    decision := true
    winStart := s.tick
    winCount := s.pclk
    mem := old.mem.filter fun e => store (e.1 / 8)
    rows := old.rows.filter fun e => store e.1
    tiles := Vector.ofFn fun t => wipedTile c t old.tiles[t]
    rings := Vector.ofFn fun r => Ring.fresh r (ringTable s c r)
    levels := old.levels
    tgActive := old.tgActive
    epoch := old.epoch
    setRet := old.setRet
    pgRet := old.pgRet
    missed := old.missed
    copy := old.copy
    life := old.life
    ist := old.ist }

/-- A queue that is empty, with the words its holds keep until its next pop (R382). -/
def Queue.holds (q : Queue) : Queue := { Queue.fresh with hold1 := q.hold1, hold2 := q.hold2, hold3 := q.hold3 }
/-- A channel that goes into or comes out of GATED or OFF keeps the values of its registers (R418): the failed ways with their
counts (R256), the rain gauges (R321), what the raw and the pool access read last (Tables 21-8, 21-9), RING_ST.BROKEN, the words
that the queues' holds keep (R382), and LC_ST: a line cache that was draining is OFF, for its frames are gone. What of the line
cache is kept so is the model's choice (assumption 106). -/
def keptRegs (old k : Channel) : Channel :=
  { k with
    tiles := Vector.ofFn fun t => { k.tiles[t] with
      wayFail := old.tiles[t].wayFail, fails := old.tiles[t].fails, decayAt := old.tiles[t].decayAt }
    queues := (old.queues.map fun e => (e.1, e.2.holds)).filter fun e => e.2 != Queue.fresh
    lc := if old.lc == .draining then .off else old.lc
    invDone := old.invDone
    gauges := old.gauges
    leakAt := old.leakAt
    broken := old.broken
    dgHold := old.dgHold
    dgRow := old.dgRow
    dgCol := old.dgCol
    dgRes := old.dgRes
    paData := old.paData
    paPoison := old.paPoison
    paSrc := old.paSrc
    paErr := old.paErr }

/-- CT fields, held copies and PG_SNAP of the pages that satisfy a test are cleared. -/
def clearCt (p : Nat → Bool) (s : State) : State :=
  { s with
    ct := s.ct.filter (fun e => !p e.1)
    held := s.held.filter (fun e => !p e.1)
    snap := s.snap.filter fun e => !p e.1 }
/-- Open journal entries that satisfy a test end FAILED, RESET (R366). -/
def failOpen (p : JEntry → Bool) (s : State) : State :=
  let s := { s with jrnOpen := s.jrnOpen.filter (!p ·) }
  forEach (s.jrn.filter fun e => e.2.state.isOpen && p e.2) (fun (e : Nat × JEntry) s => jEnd e.2.seq .failed 2 0 s) s

/-- The region locks that wait for a channel's quiet point are applied at once. -/
def locksNow (c : Ch) (old : Channel) (s : State) : State :=
  forEach old.pendq (fun (p : Pending) s => match p with
    | .regionLock b _ => forEach ((List.range 32).filter b.getLsbD) (lockRegion c (activeBank old)) s
    | _ => s) s
/-- A walk that the channel's going cuts short: its lines count for the agent's DECLARE_DEAD, and the agent may be DEAD now (R340,
R454). -/
def cutWalk (w : Walk) (s : State) : State := settleDeath w.agent (countWalk w s)
/-- What waits on a channel that leaves service goes on without it (R361, R373, R401, R454), and its alarm is clear (R457); entries
of the channel's commands but those of `own` end FAILED, RESET. `old` is the channel as it was. -/
def leaveService (c : Ch) (own : Nat → Bool) (old : Channel) (s : State) : State :=
  let s := { s with alarm := s.alarm &&& ~~~(1#16 <<< c.val), alarmGood := Tab.drop s.alarmGood c }
  let s := if s.load.any fun l => l.channels.getLsbD c then loadEnd 6 s else s
  let s := { s with
    raw := Tab.drop s.raw c
    rawOpen := if s.rawOpen.any (fun n => (openCmd s n).any fun e => e.chan == c.val) then none else s.rawOpen }
  let s := locksNow c old (failOpen (fun e => e.chan == c.val && !own e.seq) s)
  let s := strobeBy c true s
  let s := forEach (s.locks.filter fun x => x.waiting.getLsbD c) (fun (x : LockOp) s => lockBy c x.seq s) s
  let s := forEach (s.instOps.filter fun o => o.waiting.getLsbD c) (fun (o : InstOp) s => instApplied c o.seq 0 s) s
  let s := { s with agentOps := s.agentOps.map fun o =>
    if o.admits then { o with waiting := o.waiting &&& ~~~(1#16 <<< c.val) } else o }
  forEach old.walks cutWalk s

-- ## Channel reset (R416, R417)

/-- The state a reset leads a channel in state p to is ON (R416). -/
def resumesOn (k : Channel) : Bool :=
  k.pwr == .on || k.pwr == .draining || k.cause != .none || (k.pwr == .reset && k.resumeOn)
/-- A channel enters reset: clamped, emptied, its CT fields zeroed. -/
def enterReset (c : Ch) (own : Nat → Bool) (s : State) : State :=
  let old := ch s c
  let s := modCh c (fun k => { wiped s c .reset k with resumeOn := resumesOn k }) s
  let s := clearCt (fun a => pageChan a == some c.val) s
  let s := { s with pwrRun := Tab.drop s.pwrRun c, pwrPend := Tab.drop s.pwrPend c, bankRun := Tab.drop s.bankRun c, chRst := Tab.drop s.chRst c }
  leaveService c own old s

/-- The address of CH_RST. -/
def chRstAddr (c : Nat) : Nat := addrC c 0 0x60
/-- The register CH_RST acts on a write (R417). -/
def chRstAct (ctx : Ctx) (c : Ch) (v : Word) (s : State) : State :=
  let p := (ch s c).pwr
  if !v.getLsbD 0 || p == .gated || p == .off || p == .reset then refuse (chRstAddr c) s
  else
    let n := s.jrnNext
    let s := enterReset c (· == n) (jAccept ctx (chRstAddr c) 0x04F c v .running s)
    respond 0 { s with chRst := Tab.put s.chRst c n }
/-- CH_RST (R417). -/
def execChRst (ctx : Ctx) (c : Ch) (s : State) : Host.Outcome State Fault Refusal :=
  .next (hostCmd ctx (chRstAddr c) (chRstAct ctx c 1) s)

-- ## Power events and states (R418, R419)

/-- A POWER_EVENT record of a command: queue 13 of a serving channel, else the rule of R356. -/
def powerEvent (c : Ch) (st bank seq : Nat) (s : State) : State :=
  let ws := [BitVec.ofNat 64 (st + bank * 2 ^ 3 + seq % 2 ^ 48 * 2 ^ 8)]
  if serving s c then record c 13 1 0x1E ws false s else recordBlock c 1 0x1E ws s
/-- BANK of a channel event. -/
def noBank : Nat := 0x1F
/-- A channel that a command brings into a state. -/
def enterState (c : Ch) (p : Pwr) (seq : Nat) (s : State) : State :=
  powerEvent c p.code noBank seq (modCh c (fun k => { k with pwr := p }) s)

/-- IMG_ST.VALID of a channel. -/
def imgOk (s : State) (c : Ch) : Bool := s.imgValid.getLsbD c
/-- PWR_CTL.DRAIN_LIMIT in ticks. -/
def drainLimit (s : State) : Nat := atLeast1 (cfB s 9 0x50 0 16) * 1024

/-- The running power command of a channel. -/
def pwrRunning (s : State) (c : Ch) : Option PwrOp := Tab.get? s.pwrRun c
/-- The power command of a channel that is PENDING. -/
def pwrPending (s : State) (c : Ch) : Option PwrOp := Tab.get? s.pwrPend c
/-- A running power command ends. -/
def pwrEnd (c : Ch) (st : JState) (result detail : Nat) (s : State) : State :=
  match pwrRunning s c with
  | none => s
  | some o => jEnd o.seq st result detail { s with pwrRun := Tab.drop s.pwrRun c }
/-- UP is the command that waits behind the running one. -/
def upPending (s : State) (c : Ch) : Bool := (pwrPending s c).any (·.op == 2)

/-- A channel in neither ON nor DRAINING enters one of them: monitoring of its memory controller begins (R65). -/
def watchMc (c : Ch) (s : State) : State :=
  if (ch s c).pwr == .on || (ch s c).pwr == .draining then s
  else { s with mcSince := Tab.put s.mcSince c s.tick, mcLost := s.mcLost &&& ~~~(1#16 <<< c.val) }

/-- The channel enters DRAINING (R420): every anchor becomes FREE. -/
def enterDraining (c : Ch) (vacate : Bool) (seq : Nat) (s : State) : State :=
  let s := watchMc c (unripe (.drain c) s)
  enterState c .draining seq (modCh c (fun k => { k with
    drainTick := s.tick
    vacate := vacate.toNat
    limit := false
    anchors := []
    tiles := k.tiles.map fun t => { t with waits := [] } }) s)

/-- The BANK_GATE that is draining the bank of a tile: the channel's one command that runs, or beside a GATE or OFF (R441). -/
def bankOp (s : State) (c : Ch) (t : Nat) : Option PwrOp :=
  match (Tab.get? s.bankRun c).filter (fun o => o.op == 5 && o.tile == t) with
  | some o => some o
  | none => (pwrRunning s c).filter fun o => o.op == 5 && o.tile == t
/-- A BANK_GATE ends. -/
def bankOpEnd (c : Ch) (o : PwrOp) (st : JState) (result : Nat) (s : State) : State :=
  jEnd o.seq st result 0 (if (Tab.get? s.bankRun c).any (·.seq == o.seq) then { s with bankRun := Tab.drop s.bankRun c }
    else { s with pwrRun := Tab.drop s.pwrRun c })
/-- The way drains of a bank end with its drain (R441): the lines they hold go to the requests that wait for them (R254). -/
def endWayDrains (c : Ch) (t : TileId) (s : State) : State :=
  let mine (j : Job) : Bool := match j.kind with | .wayDrain u _ => u == t.val | _ => false
  let held := ((ch s c).jobs.filter mine).filterMap fun j => j.tiles[t].line.map (·.1)
  forEach held (promote c) (modCh c (fun k => { k with jobs := k.jobs.filter fun j => !mine j }) s)
/-- The bank is gated: its way drains end with it (R441), a raw hold on it is released, and its BANK_GATE ends (R427). -/
def bankGated (c : Ch) (t : TileId) (o : PwrOp) (s : State) : State :=
  let s := endWayDrains c t s
  let s := relight c t (modTile c t (fun x => { x with gated := true }) s)
  let s := if rawHeld s c t .lc then { s with raw := Tab.drop s.raw c } else s
  bankOpEnd c o .done 0 (powerEvent c 5 t.val o.seq s)

/-- The channel is clamped into GATED or OFF (R418, R423, R424). OFF loses the flow store and VALID. A bank that is being gated
beside it ends gated (R441). -/
def clampInto (c : Ch) (off : Bool) (seq : Nat) (s : State) : State :=
  let s := match Tab.get? s.bankRun c with | some o => bankGated c (tileN o.tile) o s | none => s
  let old := ch s c
  let own (n : Nat) : Bool := n == seq || (pwrPending s c).any (·.seq == n)
  let s := modCh c (fun k => keptRegs k (wiped s c (if off then .off else .gated) k)) s
  let s := leaveService c own old s
  let s := if off then
    { modCh c (trimStore 0) s with imgValid := s.imgValid &&& ~~~(1#16 <<< c.val) } else s
  pwrEnd c .done 0 0 (powerEvent c (if off then 4 else 3) noBank seq s)

/-- A channel that may enter ON asks for its quiet point, waits for SETTLED, or stops at QUIESCED with PARTIAL (R419). -/
def askOn (c : Ch) (s : State) : State :=
  if ddSettled s c then modCh c (fun k => { k with pendq := k.pendq ++ [.resume], upWait := false }) s
  else modCh c (fun k => { k with upWait := true }) s
/-- A channel asks for ON already. -/
def onAsked (k : Channel) : Bool := k.upWait || k.pendq.contains .resume

/-- An UP that cannot enter ON for want of an image or a measured PCLK stops at QUIESCED (R419). -/
def stopQuiesced (c : Ch) (seq : Nat) (s : State) : State :=
  let s := if (ch s c).pwr == .quiesced then s else
    enterState c .quiesced seq (modCh c (fun k => { k with vacate := 0, limit := false }) s)
  modCh c (fun k => { k with upWait := false }) s

/-- The channel may enter ON but for SETTLED. -/
def mayEnterOn (s : State) (c : Ch) : Bool := imgOk s c && (ch s c).pclkValid

-- ## PWR_CMD (R419, R426)

/-- The address of PWR_CMD. -/
def pwrCmd : Nat := 0x9040
/-- The channel is in the target state of an operation already. -/
def inTarget (s : State) (c : Ch) (op : Nat) : Bool :=
  match op with
  | 1 => (ch s c).pwr == .quiesced
  | 2 => (ch s c).pwr == .on
  | 3 => (ch s c).pwr == .gated
  | 4 => (ch s c).pwr == .off
  | _ => false
/-- The state condition of an operation (Table 17-3; UP from a drain past its limit, R421). -/
def pwrMay (s : State) (c : Ch) (op : Nat) (t : TileId) : Bool :=
  let k := ch s c
  let fenced := k.cause != .none
  match op with
  | 1 => k.pwr == .on
  | 2 => (k.pwr == .quiesced || k.pwr == .gated || k.pwr == .off || (k.pwr == .draining && k.limit)) && !fenced
  | 3 => (k.pwr == .on || k.pwr == .quiesced) && !fenced
  | 4 => k.pwr == .on || k.pwr == .quiesced || k.pwr == .gated || (fenced && k.pwr.serving)
  | 5 => (k.pwr == .on || k.pwr == .quiesced) && !k.tiles[t].gated
  | 6 => k.tiles[t].gated
  | _ => false

/-- BANK_GATE (R427): the bank stops allocating and filling, and its frames are drained. -/
def gateBank (c : Ch) (t : TileId) (seq : Nat) (ctx : Ctx) (s : State) : State :=
  addJob c (.bankDrain t) seq ctx (· == t.val) (modCh c (spoilFills fun u _ => u == t.val) s)

/-- UP begins to run. -/
def startUp (c : Ch) (seq : Nat) (s : State) : State :=
  match (ch s c).pwr with
  | .gated | .off => s
  | _ =>
    if mayEnterOn s c then askOn c s
    else pwrEnd c .done 1 (2 ^ c.val) (stopQuiesced c seq s)
/-- A power command that has begun to run acts. UP of a channel that is GATED or OFF waits to be powered up. -/
def startPwr (c : Ch) (o : PwrOp) (ctx : Ctx) (s : State) : State :=
  match o.op.toNat with
  | 1 => enterDraining c false o.seq s
  | 2 => startUp c o.seq s
  | 3 => enterDraining c true o.seq s
  | 4 =>
    if (ch s c).pwr == .gated || (ch s c).cause != .none then clampInto c true o.seq s else enterDraining c true o.seq s
  | 5 => gateBank c (tileN o.tile) o.seq ctx s
  | _ => modTile c (tileN o.tile) (fun x => { x with powering := true }) s

/-- Another channel's UP from GATED or OFF has not finished (R56, R425). -/
def powersUp (s : State) (c : Ch) : Bool := s.pwrRun.any fun e => e.1 != c.val && e.2.ungate
/-- A command as it begins to run: an UP from GATED or OFF ungates its channel, and waits where another does so already. -/
def PwrOp.begins (s : State) (c : Ch) (o : PwrOp) : PwrOp :=
  let ungate := o.op == 2 && ((ch s c).pwr == .gated || (ch s c).pwr == .off)
  { o with ungate := ungate, waits := ungate && powersUp s c }
/-- The journal state of a command that begins: an UP behind another channel's power-up is PENDING. -/
def PwrOp.state (o : PwrOp) : JState := if o.waits then .pending else .running

/-- The channel's UP is PENDING behind the power-up of another (R56, R425). -/
def upWaits (s : State) (c : Ch) : Bool := (pwrRunning s c).any (·.waits)
/-- With no command of the channel running, the pending one runs from the state reached. -/
def runPending (c : Ch) (s : State) : State :=
  match pwrRunning s c, pwrPending s c with
  | none, some o =>
    let s := { s with pwrPend := Tab.drop s.pwrPend c }
    if inTarget s c o.op.toNat then jEnd o.seq .done 0 0 s
    else if !pwrMay s c o.op.toNat (tileN o.tile) then jEnd o.seq .failed 4 0 s
    else
      let ctx := (openCmd s o.seq).elim 0 (·.ctx)
      let o := o.begins s c
      startPwr c o ctx { jSet o.seq o.state s with pwrRun := Tab.put s.pwrRun c o }
  | _, _ => s

/-- The register PWR_CMD acts on a write. GATE and OFF run beside a bank that is being gated (R441). -/
def pwrAct (ctx : Ctx) (v : Word) (s : State) : State :=
  let op := bits v 0 4
  let c := chN (bits v 4 4)
  let t := tileN (bits v 8 4)
  let o : PwrOp := ⟨s.jrnNext, BitVec.ofNat 4 op, t, false, false⟩
  let accept (st : JState) (s : State) : State := jAccept ctx pwrCmd (0x040 + op) c v st s
  let run (o : PwrOp) (s : State) : State :=
    let o := o.begins s c
    startPwr c o ctx { accept o.state s with pwrRun := Tab.put s.pwrRun c o }
  let same (o : PwrOp) : Bool := o.op.toNat == op
  if (pwrPending s c).isSome || upWaits s c || (pwrRunning s c).any same || (Tab.get? s.bankRun c).any same then busy pwrCmd s
  else if op = 0 ∨ 6 < op then refuse pwrCmd s
  else if (pwrRunning s c).any (·.op == 5) && (op == 3 || op == 4) && pwrMay s c op t then
    respond 0 (run o { s with bankRun := (pwrRunning s c).elim s.bankRun (Tab.put s.bankRun c) })
  else if (pwrRunning s c).isSome then
    respond 0 { accept .pending s with pwrPend := Tab.put s.pwrPend c o }
  else if inTarget s c op then respond 0 (jEnd o.seq .done 0 0 (accept .accepted s))
  else if !pwrMay s c op t then refuse pwrCmd s
  else respond 0 (run o s)

/-- The word of a power command. -/
def pwrWord (op : Nat) (c : Ch) (t : Nat) : Word := BitVec.ofNat 64 (op + c.val * 2 ^ 4 + t * 2 ^ 8)
/-- A write of PWR_CMD. -/
def pwrWrite (ctx : Ctx) (v : Word) (s : State) : State := hostCmd ctx pwrCmd (pwrAct ctx v) s

/-- DRAIN (R420). -/
def execDrain (ctx : Ctx) (c : Ch) (s : State) : Host.Outcome State Fault Refusal := .next (pwrWrite ctx (pwrWord 1 c 0) s)
/-- UP (R419, R425). -/
def execUp (ctx : Ctx) (c : Ch) (s : State) : Host.Outcome State Fault Refusal := .next (pwrWrite ctx (pwrWord 2 c 0) s)
/-- GATE (R423). -/
def execGate (ctx : Ctx) (c : Ch) (s : State) : Host.Outcome State Fault Refusal := .next (pwrWrite ctx (pwrWord 3 c 0) s)
/-- OFF (R423). -/
def execOff (ctx : Ctx) (c : Ch) (s : State) : Host.Outcome State Fault Refusal := .next (pwrWrite ctx (pwrWord 4 c 0) s)
/-- BANK_GATE (R427). -/
def execBankGate (ctx : Ctx) (c : Ch) (t : TileId) (s : State) : Host.Outcome State Fault Refusal :=
  .next (pwrWrite ctx (pwrWord 5 c t) s)
/-- BANK_UP (R427). -/
def execBankUp (ctx : Ctx) (c : Ch) (t : TileId) (s : State) : Host.Outcome State Fault Refusal :=
  .next (pwrWrite ctx (pwrWord 6 c t) s)

-- ## What a drain waits for (R421 to R423)

/-- A flit on a ring carries an egress packet. -/
def egressFlit (f : Flit) : Bool := match f.body with | .egress _ _ => true | _ => false
/-- Some ring of the channel carries or holds an egress packet. -/
def egressOnRings (k : Channel) : Bool :=
  k.rings.toList.any fun x => x.slots.toList.any (fun q => q.flit.any egressFlit) || (heldFlits x).any egressFlit
/-- Nothing is open (R421). -/
def drained (k : Channel) : Bool :=
  k.tiles.toList.all (fun t => t.ents.isEmpty) && k.hoff.isEmpty && k.walks.isEmpty && !recovering k && k.queueOf.isEmpty &&
    !k.jobs.any (fun j => match j.kind with
      | .range _ _ _ _ | .retireSlot _ _ _ | .retireSet _ _ | .retirePage _ | .flush _ _ _ => true
      | _ => false) &&
    k.vrs.isEmpty && k.dout.isEmpty && k.sno.isEmpty && k.mrq.isEmpty && k.halves.isEmpty && !egressOnRings k

/-- The channel is ON (R419, R426, R59): a drain that ran before a pending UP ends with it, and a command that waits behind an
UP runs from there. A command on a bank goes on. -/
def isOn (c : Ch) (s : State) : State :=
  let s := watchMc c s
  let s := modCh c (fun k => { k with
    pwr := .on, fence := false, startup := false, vacate := 0, limit := false, upWait := false, resumeOn := false }) s
  match pwrRunning s c with
  | none => s
  | some o =>
    let up := if o.op == 2 then some o else (pwrPending s c).filter (·.op == 2)
    let s := match up with | some u => powerEvent c 0 noBank u.seq s | none => s
    if o.op == 2 then runPending c (pwrEnd c .done 0 0 s)
    else if o.op == 5 || o.op == 6 then s
    else
      let s := if o.op == 1 then pwrEnd c .done 0 0 s else pwrEnd c .failed 3 0 s
      match up with
      | some u => jEnd u.seq .done 0 0 { s with pwrPend := Tab.drop s.pwrPend c }
      | none => s

/-- What an UP ends with that is to enter ON and has no image or no measured PCLK (R419, R229): QUIESCED, PARTIAL. -/
def upStops (c : Ch) (s : State) : State :=
  match pwrRunning s c with
  | none => s
  | some o =>
    if o.op == 2 then runPending c (pwrEnd c .done 1 (2 ^ c.val) (stopQuiesced c o.seq s))
    else match (pwrPending s c).filter (·.op == 2) with
      | none => s
      | some u =>
        let s := stopQuiesced c u.seq s
        let s := if o.op == 1 then pwrEnd c .done 0 0 s else pwrEnd c .failed 3 0 s
        jEnd u.seq .done 1 (2 ^ c.val) { s with pwrPend := Tab.drop s.pwrPend c }
/-- The channel enters ON at its quiet point (R419), where the conditions still hold. One that has been fenced meanwhile stays
fenced (R59, R346): its commands end FAILED, CONFLICT, since the state they need is gone (DESIGN CHOICE, assumption 65). -/
def enterOn (c : Ch) (s : State) : State :=
  if (ch s c).cause != .none then
    runPending c (pwrEnd c .failed 4 0 (modCh c (fun k => { k with upWait := false }) s))
  else if !mayEnterOn s c then upStops c s
  else if ddSettled s c then isOn c s
  else askOn c s
/-- What is to be done once a drain's work has ended (Table 17-5): UP is pending, so the channel returns to ON, or stops at
QUIESCED. -/
def drainReturns (c : Ch) (s : State) : State :=
  let s := modCh c (fun k => { k with vacate := 0 }) s
  if mayEnterOn s c then askOn c s else upStops c s
/-- DRAIN_QUIESCED (R421, R423): QUIESCED, or the vacate begins. -/
def drainQuiesced (c : Ch) (s : State) : State :=
  let k := ch s c
  match pwrRunning s c with
  | none => s
  | some o =>
    if k.vacate = 1 then
      addJob c .vacateDir o.seq 0 (fun _ => true) (modCh c (fun k => { k with vacate := 2 }) s)
    else if k.vacate ≠ 0 || o.op != 1 || onAsked k then s
    else if upPending s c then drainReturns c s
    else runPending c (pwrEnd c .done 0 0 (enterState c .quiesced o.seq s))
/-- The conditions of R421 hold. -/
def drainOver (s : State) (c : Ch) : Bool := serving s c && (ch s c).pwr == .draining && drained (ch s c)
/-- DRAIN_QUIESCED (R421): at the end of the first tick on which the conditions hold (R475), or once they hold before a vacate
(R423). -/
def execDrainQuiesced (c : Ch) (s : State) : Host.Outcome State Fault Refusal :=
  .next (if drainOver s c && (s.ripe.contains (.drain c) || (ch s c).vacate ≠ 0) then drainQuiesced c s else s)

/-- The vacate of a channel has ended (R423, Table 17-5). -/
def vacateEnd (c : Ch) (s : State) : State :=
  if upPending s c then drainReturns c s else modCh c (fun k => { k with vacate := 4 }) s

/-- Tracker entries in use in a channel. -/
def entriesUsed (k : Channel) : Nat := k.tiles.toList.foldl (fun n t => n + t.ents.length) 0
/-- A drain has passed DRAIN_LIMIT (R421): the limit does not apply to the vacate. -/
def limitPassed (s : State) (c : Ch) : Bool :=
  serving s c && (ch s c).pwr == .draining && decide ((ch s c).vacate ≤ 1) && !(ch s c).limit && !onAsked (ch s c) &&
    (pwrRunning s c).isSome && decide ((ch s c).drainTick + drainLimit s ≤ s.tick)
/-- The command ends FAILED; the channel stays DRAINING. -/
def drainFails (c : Ch) (s : State) : State :=
  match pwrRunning s c with
  | none => s
  | some o =>
    let s := modCh c (fun k => { k with limit := true, vacate := 0 }) s
    runPending c (pwrEnd c .failed 4 (entriesUsed (ch s c) % 2 ^ 12) (powerEvent c 7 noBank o.seq s))
/-- DRAIN_LIMIT_PASSED (R421). -/
def execDrainLimitPassed (c : Ch) (s : State) : Host.Outcome State Fault Refusal :=
  .next (if limitPassed s c then drainFails c s else s)

/-- The far side has settled (R422). A GATE or OFF that is past its vacate when the channel is fenced does not clamp it: a reset
alone ends the fence (R346), and the command stays open until then (assumption 88). -/
def clampDue (s : State) (c : Ch) : Bool :=
  let k := ch s c
  serving s c && k.cause == .none && k.pwr == .draining && k.vacate == 4 && mrsUsed k == 0 &&
    k.rings.toList.all Ring.idle && ddPassed s c && k.mrq.isEmpty
/-- CHANNEL_CLAMP (R422, R423). -/
def execChannelClamp (c : Ch) (s : State) : Host.Outcome State Fault Refusal :=
  .next (match (if clampDue s c then pwrRunning s c else none) with
    | some o => runPending c (clampInto c (o.op == 4) o.seq s)
    | none => s)

-- ## Returning to service (R425, R203)

/-- CHANNEL_POWER_UP (R56, R425): one channel at a time. An UP that runs goes; those that are PENDING follow it in the order of
their commands. -/
def powerUpDue (s : State) (c : Ch) : Bool :=
  running s && ((ch s c).pwr == .gated || (ch s c).pwr == .off) && (pwrRunning s c).any (·.op == 2) &&
    (pwrRunning s c).any fun o => !o.waits || !s.pwrRun.any fun e =>
      e.1 != c.val && e.2.ungate && (!e.2.waits || decide (e.2.seq < o.seq))
/-- CHANNEL_POWER_UP (R425). -/
def execChannelPowerUp (c : Ch) (s : State) : Host.Outcome State Fault Refusal :=
  .next (if powerUpDue s c then
    (match pwrRunning s c with
      | some o =>
        let s := modCh c (fun k => keptRegs k (wiped s c .reset k)) s
        jSet o.seq .running { s with pwrRun := Tab.put s.pwrRun c { o with waits := false } }
      | none => s)
  else s)

/-- The channel takes the block-level copies with the open changes of the tables, and the staged values of pages whose group was
strobed without it (R425). -/
def takeCopies (c : Ch) (s : State) : State :=
  let g := (ch s c).missed
  let s := modCh c (fun k => { k with
    copy := (s.app.filter fun e => isTable e.1 && e.2 != 0)
    life := s.life
    ist := s.ist
    missed := 0 }) s
  let s := putApp (ofChan c (captured s g)) (openTables c s)
  forEach allTiles (relight c) (modCh c (fun k => { k with rings := Vector.ofFn fun r => Ring.fresh r (ringTable s c r) }) s)
/-- The start-up tests of a channel (Table 17-1, R330, R335). -/
def startTests (c : Ch) (x : StartUp) (s : State) : State :=
  let bit (e : Nat) : Bool := x.engines.getLsbD e
  let s := modCh c (fun k => { k with
    tiles := Vector.ofFn fun t => { k.tiles[t] with fail0 := bit (2 * t.val), fail1 := bit (2 * t.val + 1) }
    xret := x.xRings
    yret := x.yRings
    rings := Vector.ofFn fun r => { k.rings[r] with
      retired := if r.val < 4 then x.xRings.getLsbD r else x.yRings.getLsbD (r - 4) }
    simplex := xor x.steward0 x.steward1
    stewardOff := x.steward1 && !x.steward0 }) s
  if x.steward0 && x.steward1 then fenceFor c .steward s
  else if allTiles.any fun t => bit (2 * t.val) && bit (2 * t.val + 1) then fenceFor c .engines s
  else if 1 < popcount x.xRings.toNat 4 || 1 < popcount x.yRings.toNat 4 then fenceFor c .ring s
  else s

/-- The reset's own work is over: a channel that is to be ON has to have measured PCLK and settled, or has no image. -/
def resetMayEnd (s : State) (c : Ch) : Bool :=
  let k := ch s c
  running s && k.pwr == .reset && (!k.resumeOn || !imgOk s c || (k.pclkValid && ddSettled s c))
/-- The channel leaves RESET (R416, R425): QUIESCED, then ON where it was or where UP wants it. Its heartbeat of 32 ticks runs from
here: R57 gives it no start (DESIGN CHOICE, assumption 89). -/
def resetEnds (c : Ch) (x : StartUp) (s : State) : State :=
  let on := (ch s c).resumeOn && imgOk s c
  let s := takeCopies c s
  let s := modCh c (fun k => { k with pwr := .quiesced, aliveTick := s.tick, resumeOn := false }) s
  let s := startTests c x s
  let s := if on && (ch s c).cause == .none then isOn c s else s
  let s := match Tab.get? s.chRst c with
    | some n => jEnd n .done 0 0 { s with chRst := Tab.drop s.chRst c }
    | none => s
  match pwrRunning s c with
  | none => s
  | some o =>
    if o.op != 2 then s
    else
      let s := powerEvent c 2 noBank o.seq s
      if (ch s c).cause != .none || !imgOk s c then runPending c (pwrEnd c .done 1 (2 ^ c.val) s)
      else if (ch s c).pclkValid then askOn c s else modCh c (fun k => { k with upWait := true }) s
/-- CHANNEL_RESET_DONE (R416, R425). -/
def execChannelResetDone (c : Ch) (test : StartUp) (s : State) : Host.Outcome State Fault Refusal :=
  .next (if resetMayEnd s c then resetEnds c test s else s)

/-- An UP that waits goes on once PCLK is measured and DD_SETTLE has passed. It stops at QUIESCED with PARTIAL where VALID is
clear, or where PCLK_VALID still is at the end of a window by which it could have been set (R115, R419). -/
def upGoes (c : Ch) (measured : Bool) (s : State) : State :=
  if !(ch s c).upWait then s
  else if mayEnterOn s c then askOn c s
  else if !imgOk s c || measured then upStops c s
  else s
/-- DD_SETTLE_ELAPSED (R203). -/
def execDdSettleElapsed (c : Ch) (s : State) : Host.Outcome State Fault Refusal :=
  .next (if running s && (!(ch s c).settled || (ch s c).upWait) && ddPassed s c then
    upGoes c false (modCh c (fun k => { k with settled := true }) s) else s)

-- ## Banks (R427)

/-- The bank's frames are drained, and its way drains end: it is gated, or returns to service where BANK_UP waits for it (R441,
Table 17-5). -/
def bankDrained (c : Ch) (t : TileId) (s : State) : State :=
  match bankOp s c t with
  | none => s
  | some o =>
    match (pwrPending s c).filter fun u => u.op == 6 && u.tile == t.val with
    | some u =>
      let s := powerEvent c 6 t.val u.seq (bankOpEnd c o .failed 3 (relight c t (endWayDrains c t s)))
      jEnd u.seq .done 0 0 { s with pwrPend := Tab.drop s.pwrPend c }
    | none => runPending c (bankGated c t o s)
/-- BANK_POWER_UP_DONE (R427): the bank returns with every frame invalid. -/
def bankBack (c : Ch) (t : TileId) (s : State) : State :=
  let s := relight c t (modTile c t (fun x => { x with gated := false, powering := false }) s)
  match pwrRunning s c with
  | none => s
  | some o => runPending c (pwrEnd c .done 0 0 (powerEvent c 6 t.val o.seq s))
/-- BANK_POWER_UP_DONE (R427). -/
def execBankPowerUpDone (c : Ch) (t : TileId) (s : State) : Host.Outcome State Fault Refusal :=
  .next (if running s && (tile s c t).powering then bankBack c t s else s)

-- ## Block resets (R48, R366, R373, R415, R416)

/-- Agents being reclaimed are DEAD, and instances being quiesced are QUIESCED (Table 17-1). -/
def settleTables (s : State) : State :=
  { s with
    life := s.life.map fun e => (e.1, if e.2 = .reclaiming then .dead else e.2)
    ist := s.ist.map fun e => (e.1, if e.2 = .quiescing then .quiesced else e.2) }
/-- The page is not the journal page. -/
def notJournal (a : Nat) : Bool := a / 0x1000 != 3
/-- A block reset clears the failed ways and their counts in every channel, powered or not (R256). -/
def waysReset (k : Channel) : Channel :=
  { k with tiles := k.tiles.map fun t => { t with wayFail := 0, fails := [], decayAt := [] } }
/-- The warm reset (R415): every open command ends, every hold is released, and every channel in service is reset. -/
def warmReset (s : State) : State :=
  let s := failOpen (fun _ => true) (loadEnd 6 s)
  let s := { s with
    rspQ := [], strobe := none, snapOp := none, holds := [], agentOps := [], instOps := [], pwrRun := [], pwrPend := []
    bankRun := [], chRst := [], raw := [], rawOpen := none }
  let s := forEach allCh (fun c s =>
    if (ch s c).pwr == .gated || (ch s c).pwr == .off then modCh c waysReset s else enterReset c (fun _ => false) s) s
  clearCt notJournal (settleTables s)
/-- WARM_RESET_ASSERT (R48): no further effect during a cold reset. -/
def execWarmResetAssert (s : State) : Host.Outcome State Fault Refusal :=
  .next (if running s then { warmReset s with warmN := false } else { s with warmN := false })
/-- WARM_RESET_RELEASE (R48): the channels then end their reset (CHANNEL_RESET_DONE). -/
def execWarmResetRelease (s : State) : Host.Outcome State Fault Refusal := .next { s with warmN := true }

/-- The block in cold reset: everything at its reset value, the channels in RESET; the levels on the input pins stay, and the
queue of commands. -/
def coldReset (s : State) : State :=
  { State.reset with
    pending := s.pending
    coldN := false
    warmN := s.warmN
    adLevel := s.adLevel
    mcLevel := s.mcLevel
    chans := State.reset.chans.map fun k => { k with pwr := .reset } }
/-- COLD_RESET_ASSERT (R48, R415). -/
def execColdResetAssert (s : State) : Host.Outcome State Fault Refusal := .next (coldReset s)
/-- COLD_RESET_RELEASE (R48). -/
def execColdResetRelease (s : State) : Host.Outcome State Fault Refusal := .next { s with coldN := true }

end Sys2Proof.Machine
end

