-- ==== Sys2Proof/Machine/Maint.lean ====
section
/-! DEFINITION. Maintenance: range operations (09 R253 to R255), the line-cache states (R258 to R261), way and bank drains
(R257, R262), retirements (12 R323), FLUSH (16 R406) and the vacate (17 R423), all run step by step under R254. -/

namespace Sys2Proof.Machine

-- ## Positions of a job in a tile (R254)

/-- A job that walks lines in ascending address: the range's first line and size (R254, R406, Table 12-6). -/
def walkOf (j : JobKind) : Option (LAddr × Nat) :=
  match j with
  | .range _ false base size => if size ≤ 10 then some (base, size) else none
  | .flush _ base size => if size ≤ 10 then some (base, size) else none
  | .retirePage p => some (p.setWidth 46 <<< 6, 6)
  | _ => none
/-- Line p of an aligned range. -/
def rangeLine (base : LAddr) (size p : Nat) : LAddr := BitVec.ofNat 46 (base.toNat / 2 ^ size * 2 ^ size + p)
/-- The tile has lines of the job. -/
def takesPart (c : Ch) (j : JobKind) (t : Nat) : Bool :=
  match walkOf j with
  | some (base, size) => (List.range (2 ^ size)).any fun p =>
      channelOf (rangeLine base size p) == c.val && tileOf (rangeLine base size p) == t
  | none =>
    match j with
    | .wayDrain u _ | .bankDrain u | .retireSlot u _ _ | .retireSet u _ => u == t
    | _ => true

/-- Some tag block of the set's half is in use. -/
def tagListed (k : Channel) (t set way : Nat) : Bool :=
  (Tab.get? k.rows (rowKey 3 t (tagRow set way))).isSome || (Tab.get? k.rows (rowKey 4 t (tagRow set way))).isSome
/-- The line in a frame, if the frame is VALID and the job acts on it. -/
def frameTarget (k : Channel) (c : Ch) (t : Nat) (j : JobKind) (set way : Nat) : Option LAddr :=
  if !tagListed k t set way then none
  else
    let e := tagAt k t set way
    let l := frameLine c t set e.tag
    if !e.valid then none
    else
      match j with
      | .range _ all base size => if all || inRange l base size then some l else none
      | .flush _ base size => if inRange l base size then some l else none
      | _ => some l
/-- The next frame from a position on, with the position after it. -/
def nextFrame (k : Channel) (c : Ch) (t : Nat) (j : JobKind) (frame : Nat → Nat × Nat) (pos n : Nat) :
    Option (Nat × LAddr) :=
  if !(k.rows.any fun r => r.1 / 8192 == 3 * 16 + t || r.1 / 8192 == 4 * 16 + t) then none
  else (List.range (n - pos)).findSome? fun i =>
    (frameTarget k c t j (frame (pos + i)).1 (frame (pos + i)).2).map fun l => (pos + i + 1, l)
/-- The next line in the range of a FLUSH that a set from `pos` on records, with its set. -/
def nextRecorded (k : Channel) (c : Ch) (t : Nat) (base : LAddr) (size pos : Nat) : Option (Nat × LAddr) :=
  (allSlots k).findSome? fun x =>
    if x.1 != t || decide (x.2.1 < pos) then none
    else
      let ls := match x.2.2.2 with
        | .cirrus tag _ _ _ => [cirrusLine c t x.2.1 tag]
        | .stratus tag _ m _ _ => ((List.range 64).filter m.getLsbD).map (stratusLine c t x.2.1 tag)
        | _ => []
      (ls.find? fun l => inRange l base size).map fun l => (x.2.1, l)

/-- A line of a sweep that a tracker entry of the tile holds, or for which a request waits in a handoff buffer, from before the job
began: the step waits for it as a walk's does (R254, R406, assumption 103). -/
def nextOpened (k : Channel) (t since : Nat) (on : LAddr → Bool) : Option LAddr :=
  let x := k.tiles[tileN t]
  let ls := ((x.ents.filter fun e => decide (e.2.rid < since)).map fun e =>
      (heldLines e.2).filter fun l => e.2.covers x e.1 l) ++
    [(k.hoff.filter fun w => w.tile == t && decide (w.rid < since)).map (·.line)]
  ls.flatten.find? on
/-- The lines of a sweep that a range names. -/
def sweptLine (j : JobKind) (l : LAddr) : Bool :=
  match j with
  | .range _ all base size => all || inRange l base size
  | .flush _ base size => inRange l base size
  | _ => false

/-- The next line of a job in a tile from a position on, with the position to go on from once the line is done. A sweep of a range
begins with the lines that are in hand in the tile. A FLUSH then goes through the snoop filter's sets (positions 0 to 2047), each
until it records no line of the range, and every sweep through the frames. -/
def nextTarget (k : Channel) (c : Ch) (t : Nat) (j : JobKind) (since pos : Nat) : Option (Nat × LAddr) :=
  match walkOf j with
  | some (base, size) => (List.range (2 ^ size - pos)).findSome? fun i =>
      let l := rangeLine base size (pos + i)
      if channelOf l == c.val && tileOf l == t then some (pos + i + 1, l) else none
  | none =>
    let sweep (p : Nat) : Option (Nat × LAddr) := nextFrame k c t j (fun f => (f / 16, f % 16)) p 4096
    match nextOpened k t since (sweptLine j) with
    | some l => some (pos, l)
    | none =>
    match j with
    | .flush _ base size =>
      match (if pos < 2048 then nextRecorded k c t base size pos else none) with
      | some x => some x
      | none => (sweep (pos - 2048)).map fun x => (x.1 + 2048, x.2)
    | .wayDrain _ w => nextFrame k c t j (fun f => (f, w)) pos 256
    | .retireSet _ set => nextFrame k c t j (fun w => (set, w)) pos 16
    | _ => sweep pos

-- ## Job bookkeeping

/-- Job id of a channel. -/
def jobOf (k : Channel) (id : Nat) : Option Job := k.jobs.find? fun (j : Job) => j.id == id
/-- Change a tile's place in a job. -/
def modJob (c : Ch) (id : Nat) (t : TileId) (f : JobTile → JobTile) (s : State) : State :=
  modCh c (fun k => { k with jobs := k.jobs.map fun (j : Job) =>
    if j.id = id then { j with tiles := j.tiles.set t (f j.tiles[t]) } else j }) s
/-- Every tile of a job has been walked. -/
def Job.finished (j : Job) : Bool := j.tiles.toList.all (·.fin)
/-- A range operation is RUNNING (LC_ST.MAINT_BUSY). -/
def maintBusy (k : Channel) : Bool := k.jobs.any fun j => match j.kind with
  | .range _ _ _ _ => true
  | _ => false
/-- A retirement is RUNNING (IN_RETIRE_ST.BUSY). -/
def retireBusy (k : Channel) : Bool := k.jobs.any fun j => match j.kind with
  | .retireSlot _ _ _ | .retireSet _ _ | .retirePage _ => true
  | _ => false

/-- The line-cache bank of a tile is in service: a gated one takes no part in an operation (R262). -/
def bankIn (s : State) (c : Ch) (t : Nat) : Bool := !(tile s c (tileN t)).gated
/-- DISABLE begins its drain (R260): fills in flight will not be installed (R250). -/
def startDrain (c : Ch) (seq : Nat) (s : State) : State :=
  addJob c .lcDrain seq 0 (bankIn s c) (modCh c (fun k => spoilFills (fun _ _ => true)
    { k with lc := .draining, lcRun := some seq, lcHeld := none }) s)
/-- The line-cache drain has ended: OFF, or ON under a held ENABLE (R260, Table 9-4). -/
def lcDrained (c : Ch) (s : State) : State :=
  let run (s : State) (st : JState) (r : Nat) : State := match (ch s c).lcRun with
    | some n => jEnd n st r 0 s
    | none => s
  match (ch s c).lcHeld with
  | some (true, n) =>
    jEnd n .done 0 0 (modCh c (fun k => { k with lc := .on, lcRun := none, lcHeld := none }) (run s .failed 3))
  | _ => modCh c (fun k => { k with lc := .off, invDone := false, lcRun := none }) (run s .done 0)

/-- A range operation has ended (R253, R261): counts, record, and a DISABLE held behind it. -/
def rangeEnd (c : Ch) (j : Job) (op : BitVec 2) (all : Bool) (s : State) : State :=
  let counts := j.written % 2 ^ 17 + j.discarded % 2 ^ 17 * 2 ^ 17
  let s := jEnd j.seq .done 0 counts s
  let s := record c 4 1 0x0C [BitVec.ofNat 64 (j.seq % 2 ^ 48), BitVec.ofNat 64 counts] false s
  let s := if all && op != 1 && (ch s c).lc == .off then modCh c (fun k => { k with invDone := true }) s else s
  match (ch s c).lcHeld with
  | some (false, n) => startDrain c n (jSet n .running s)
  | _ => s
/-- A retirement has ended (R323): requests that waited for the lines of a retired page go on (R324). -/
def retireEnd (c : Ch) (j : Job) (s : State) : State :=
  let s := modCh c (fun k => match j.kind with
    | .retireSet t set => { k with setRet := k.setRet ++ [(t, set, 0, true)] }
    | .retirePage p => { k with pgRet := k.pgRet ++ [p] }
    | _ => k) s
  let s := ev c 0x50 none {} (record c 7 1 0x13 [BitVec.ofNat 64 (j.seq % 2 ^ 48)] false (jEnd j.seq .done 0 0 s))
  match j.kind with
  | .retirePage p => forEach ((List.range 64).map fun i => p.setWidth 46 <<< 6 ||| BitVec.ofNat 46 i) (promote c) s
  | _ => s

/-- A job ends. -/
def jobEnd (c : Ch) (j : Job) (s : State) : State :=
  let s := modCh c (fun k => { k with jobs := k.jobs.filter fun (x : Job) => x.id != j.id }) s
  match j.kind with
  | .range op all _ _ => rangeEnd c j op all s
  | .lcDrain => lcDrained c s
  | .wayDrain t _ => relight c (tileN t) s
  | .bankDrain t => bankDrained c (tileN t) s
  | .retireSlot _ _ _ | .retireSet _ _ | .retirePage _ => retireEnd c j s
  | .flush _ _ _ => instApplied c j.seq j.written s
  | .vacateDir => addJob c .vacateLc j.seq 0 (fun _ => true) (modCh c (fun k => spoilFills (fun _ _ => true) { k with vacate := 3 }) s)
  | .vacateLc => vacateEnd c s

-- ## One line (R254, R406)

/-- Nothing ordered before the step is left on the line: no entry but chain members of later requests, and no older request
in a handoff buffer (R178, R254). -/
def lineClear (k : Channel) (l : LAddr) (since : Nat) : Bool :=
  !(k.hoff.any fun w => w.line == l && decide (w.rid < since)) &&
    !(entriesOn k.tiles[home l] l).any fun x => !(x.2.inChain && !x.2.head && decide (since ≤ x.2.rid))
/-- The step lets go of its line: the job goes on after it, and a request that waited runs. -/
def releaseLine (c : Ch) (id : Nat) (l : LAddr) (s : State) : State :=
  promote c l (modJob c id (home l) (fun x =>
    { x with line := none, phase := 0, ent := none }) s)

/-- The operation keeps clean frames. -/
def keepsFrames : JobKind → Bool
  | .range op _ _ _ => op == 1
  | .lcDrain => true
  | _ => false
/-- The operation discards DIRTY data. -/
def discardsData : JobKind → Bool
  | .range op _ _ _ => op == 2
  | .retirePage _ => true
  | _ => false

/-- A frame is made invalid: a PF frame counts as an unused prefetch, and plans for the line are discarded. -/
def dropFrame (c : Ch) (t : TileId) (set w : Nat) (l : LAddr) (s : State) : State :=
  let s := if (tagAt (ch s c) t set w).pf then ev c 0x39 (some 2) (occTile t) s else s
  discardPlans c (·.laddr == l) (modCh c (putTag t set w TagE.none) s)
/-- A DIRTY frame is written to memory by a background entry, which the step waits for; with no entry free it waits. -/
def writeBack (c : Ch) (j : Job) (l : LAddr) (w : Nat) (s : State) : State :=
  let t := home l
  let e := tagAt (ch s c) t (lcSet l) w
  let d := frameData (ch s c) t (lcSet l) w
  match openBackground c l (.maint j.id) s with
  | (s, none) => s
  | (s, some n) =>
    let s := modEntry c t n (fun x => { x with fetched := true, updated := true, readyAt := s.tick })
      (sendMemWr c t n l d e.poison 0 s)
    let s := if keepsFrames j.kind then
        discardPlans c (·.laddr == l) (modCh c (putTag t (lcSet l) w { e with dirty := false }) s)
      else dropFrame c t (lcSet l) w l s
    countLine c t j.id true (modJob c j.id t (fun x => { x with phase := 2, ent := some n }) s)
/-- What a step does to the line's frame (Table 9-3). -/
def frameStep (c : Ch) (j : Job) (l : LAddr) (s : State) : State :=
  let t := home l
  let s := if (frameOf (ch s c) l).isSome then readTags c t (lcSet l) s else s
  let s := match frameOf (ch s c) l with
    | some w => readFrame c t (lcSet l) w s
    | none => s
  match frameOf (ch s c) l with
  | none => releaseLine c j.id l s
  | some w =>
    let dirty := (tagAt (ch s c) t (lcSet l) w).dirty
    if dirty && !discardsData j.kind then writeBack c j l w s
    else if keepsFrames j.kind then releaseLine c j.id l s
    else
      let s := dropFrame c t (lcSet l) w l s
      releaseLine c j.id l (if dirty then countLine c t j.id false s else s)
/-- The step acts on the line's frame (Table 9-3), with the line-cache port. -/
def actOnFrame (c : Ch) (j : Job) (l : LAddr) (s : State) : State :=
  withPort c (home l) .lc (.step j.id) (fun s => replan c (home l) (frameStep c j l s)) s

/-- FLUSH and page retirement snoop the line's holders first (R406, Table 12-6). -/
def snoopsFirst : JobKind → Bool
  | .flush _ _ _ | .retirePage _ => true
  | _ => false
/-- The holders are snooped by a background entry, whose flow then leaves the directory I (R139, R406). -/
def snoopLine (c : Ch) (j : Job) (l : LAddr) (d : Dir) (s : State) : State :=
  let t := home l
  match openBackground c l (.maint j.id) s with
  | (s, none) => s
  | (s, some n) =>
    let snps := (snoopable (ch s c) d).map fun a => newSnp l d (a, .inv)
    let s := modEntry c t n (fun e => { e with fetched := true, found := d, snoops := snps, readyAt := s.tick }) s
    modJob c j.id t (fun x => { x with phase := 1, ent := some n }) (settleDead c t n s)
/-- The directory of a line, read for a step; an uncorrectable block goes to recovery, and the step waits. -/
def snoopStep (c : Ch) (j : Job) (l : LAddr) (s : State) : State :=
  if underRecovery (ch s c) l then s
  else
    let s := mendRows c 0 (home l) (dirRows l) s
    let lk := lookup (ch s c) l
    if lk.bad then dirError c l s
    else if lk.dir == .i then actOnFrame c j l (modJob c j.id (home l) (fun x => { x with phase := 1, ent := none }) s)
    else snoopLine c j l lk.dir s

/-- The entry of a job's step is still in use. -/
def stepEntry (k : Channel) (t : TileId) (id : Nat) (x : JobTile) : Bool :=
  x.ent.any fun n => (entry? k.tiles[t] n).any fun e => e.work == .maint id
/-- A step goes on with the line it holds. -/
def lineStep (c : Ch) (t : TileId) (j : Job) (x : JobTile) (l : LAddr) (since : Nat) (s : State) : State :=
  if stepEntry (ch s c) t j.id x then s
  else if x.phase = 2 then releaseLine c j.id l s
  else if x.phase = 1 then actOnFrame c j l s
  else if !lineClear (ch s c) l since then s
  else if snoopsFirst j.kind then withPort c (home l) .sf (.step j.id) (snoopStep c j l) s
  else actOnFrame c j l s
/-- The job acts on frames alone: a bank that is gated while it runs has no more part in it (R262). -/
def framesOnly : JobKind → Bool
  | .range _ _ _ _ | .lcDrain | .wayDrain _ _ | .bankDrain _ | .retireSet _ _ | .vacateLc => true
  | _ => false
/-- The next line is selected and held (R254), or the tile is done. -/
def selectLine (c : Ch) (t : TileId) (j : Job) (x : JobTile) (s : State) : State :=
  match (if framesOnly j.kind && !bankIn s c t then none else nextTarget (ch s c) c t j.kind j.since x.pos) with
  | none => modJob c j.id t (fun x => { x with fin := true }) s
  | some (p, l) =>
    if (jobHold (ch s c) l).isSome then s
    else modJob c j.id t (fun x => { x with pos := p, line := some (l, (ch s c).nextRid), phase := 0, ent := none }) s

-- ## Slots of the snoop filter (R323, R423)

/-- A line of an entry is open or held. -/
def slotHeld (k : Channel) (c t set : Nat) (v : SlotV) : Bool :=
  (slotLines c t set v).any fun l => entryOpen k l || (jobHold k l).isSome
/-- The entry of a way is evicted once it is unpinned and an eviction may run: the entry's index, or none. -/
def tryEvict (c : Ch) (t : TileId) (set w : Nat) (s : State) : Option (Nat × State) :=
  if evictMax s c ≤ evictTaken (tile s c t) || slotHeld (ch s c) c t set (slotAt (ch s c) t set w) then none
  else (freeEntry (tile s c t)).map fun m => (m, evictWay c t set w m s)
/-- A set's bad blocks are mended or sent to recovery before its entries are touched; true: none is left. -/
def setReady (c : Ch) (t : TileId) (set : Nat) (s : State) : State × Bool :=
  let s := mendRows c 0 t (setRows set) s
  match (setRows set).find? fun (r : Nat × Nat) => rowOutcome (ch s c) (rowKey r.1 t r.2) == .bad with
  | some r => (dirBlock c t (r.1 == 1) r.2 0 s, false)
  | none => (s, true)

/-- Retirement of a slot (Table 12-6): its entry is evicted, a wide entry whole; the slot takes no allocation from then on. -/
def slotStep (c : Ch) (t : TileId) (j : Job) (x : JobTile) (set way : Nat) (s : State) : State :=
  let retire (s : State) : State := modCh c (fun k => { k with setRet := k.setRet ++ [(t.val, set, way, false)] }) s
  if x.phase = 1 then
    if x.ent.any fun n => (entry? (tile s c t) n).any fun e => e.work == .eviction then s
    else modJob c j.id t (fun x => { x with fin := true }) s
  else
    match setReady c t set s with
    | (s, false) => s
    | (s, true) =>
      let w := if isCont (ch s c) t set way then way - 1 else way
      if slotAt (ch s c) t set w == .invalid then modJob c j.id t (fun x => { x with fin := true }) (retire s)
      else
        match tryEvict c t set w s with
        | none => s
        | some (m, s) => modJob c j.id t (fun x => { x with phase := 1, ent := some m }) (retire s)
/-- The vacate of the directory in a tile (R423): every entry is evicted. -/
def vacateStep (c : Ch) (t : TileId) (j : Job) (s : State) : State :=
  match (allSlots (ch s c)).find? fun (x : Nat × Nat × Nat × SlotV) => x.1 == t.val with
  | none =>
    if evictUsed (tile s c t) = 0 then modJob c j.id t (fun x => { x with fin := true }) s else s
  | some x =>
    match setReady c t x.2.1 s with
    | (s, false) => s
    | (s, true) =>
      match tryEvict c t x.2.1 x.2.2.1 s with
      | none => s
      | some (_, s) => s

-- ## MAINT_STEP (R254)

/-- The job acts on the snoop filter alone. -/
def dirOnly : JobKind → Bool
  | .retireSlot _ _ _ | .vacateDir => true
  | _ => false
/-- A job goes on in a tile; one that acts on the snoop filter lets the clear-sky updates there land first (R180). -/
def tileStep (c : Ch) (t : TileId) (j : Job) (s : State) : State :=
  let x := j.tiles[t]
  if x.fin || ((snoopsFirst j.kind || dirOnly j.kind) && landingIn s c t) then s
  else
    match j.kind, x.line with
    | .retireSlot _ set way, _ => withPort c t .sf (.step j.id) (slotStep c t j x set way) s
    | .vacateDir, _ => withPort c t .sf (.step j.id) (vacateStep c t j) s
    | _, some (l, since) => lineStep c t j x l since s
    | _, none => selectLine c t j x s
/-- A job ends with its last tile. -/
def jobOver (c : Ch) (id : Nat) (s : State) : State :=
  match jobOf (ch s c) id with
  | some j => if j.finished then jobEnd c j s else s
  | none => s
/-- MAINT_STEP (R254). -/
def execMaintStep (c : Ch) (t : TileId) (job : Nat) (s : State) : Host.Outcome State Fault Refusal :=
  .next (match (if enginesRun s c then jobOf (ch s c) job else none) with
    | some j => jobOver c job (tileStep c t j s)
    | none => s)

-- ## LC_CMD (R259)

/-- The register LC_CMD acts on a write (Table 9-4). -/
def lcCmdAct (ctx : Ctx) (c : Ch) (v : Word) (s : State) : State :=
  let a := addrC c 8 0x48
  let n := s.jrnNext
  let k := ch s c
  let accept (st : JState) (s : State) : State := jAccept ctx a 0x101 c v st s
  let doneNow (s : State) : State := respond 0 (jEnd n .done 0 0 (accept .accepted s))
  if k.lcHeld.isSome then busy a s
  else
    match bits v 0 2 with
    | 1 => match k.lc with
      | .on =>
        if maintBusy k then respond 0 (modCh c (fun k => { k with lcHeld := some (false, n) }) (accept .pending s))
        else respond 0 (startDrain c n (accept .running s))
      | .draining => busy a s
      | .off => doneNow s
    | 2 => match k.lc with
      | .on => doneNow s
      | .draining => respond 0 (modCh c (fun k => { k with lcHeld := some (true, n) }) (accept .pending s))
      | .off => if k.invDone then doneNow (modCh c (fun k => { k with lc := .on }) s) else refuse a s
    | _ => refuse a s
/-- DISABLE (R259, R260). -/
def execDisable (ctx : Ctx) (c : Ch) (s : State) : Host.Outcome State Fault Refusal :=
  .next (hostCmd ctx (addrC c 8 0x48) (lcCmdAct ctx c 1) s)
/-- ENABLE (R259). -/
def execEnable (ctx : Ctx) (c : Ch) (s : State) : Host.Outcome State Fault Refusal :=
  .next (hostCmd ctx (addrC c 8 0x48) (lcCmdAct ctx c 2) s)

-- ## LC_MAINT_CMD (R253)

/-- A job that a command starts: fills in flight for its lines will not be installed (R255). -/
def startJob (c : Ch) (kind : JobKind) (seq : Nat) (ctx : Ctx) (s : State) : State :=
  addJob c kind seq ctx (fun t => takesPart c kind t && (snoopsFirst kind || dirOnly kind || bankIn s c t))
    (modCh c (spoilFills fun _ m => jobCovers kind m.laddr) s)
/-- The register LC_MAINT_CMD acts on a write. -/
def lcMaintAct (ctx : Ctx) (c : Ch) (v : Word) (s : State) : State :=
  let a := addrC c 8 0x50
  let base : LAddr := v.extractLsb' 0 46
  let size := bits v 46 6
  let op : BitVec 2 := v.extractLsb' 52 2
  let all := v.getLsbD 54
  if maintBusy (ch s c) then busy a s
  else if op == 0 || (!all && (decide (46 < size) || base.toNat % 2 ^ size != 0)) then refuse a s
  else if (ch s c).lc == .draining || heldByOther s ctx all base size then refuse a s
  else
    let n := s.jrnNext
    respond 0 (startJob c (.range op all base size) n ctx (jAccept ctx a 0x102 c v .running s))
/-- The word of a range operation (Table 9-7). -/
def maintWord (op : Nat) (base : LAddr) (size : BitVec 6) (all : Bool) : Word :=
  BitVec.ofNat 64 (base.toNat + size.toNat * 2 ^ 46 + op * 2 ^ 52 + all.toNat * 2 ^ 54)
/-- A write of LC_MAINT_CMD. -/
def lcMaintWrite (ctx : Ctx) (c : Ch) (v : Word) (s : State) : State :=
  hostCmd ctx (addrC c 8 0x50) (lcMaintAct ctx c v) s
/-- CLEAN (R253). -/
def execClean (ctx : Ctx) (c : Ch) (base : LAddr) (sizeLog2 : BitVec 6) (all : Bool) (s : State) :
    Host.Outcome State Fault Refusal := .next (lcMaintWrite ctx c (maintWord 1 base sizeLog2 all) s)
/-- INVALIDATE (R253). -/
def execInvalidate (ctx : Ctx) (c : Ch) (base : LAddr) (sizeLog2 : BitVec 6) (all : Bool) (s : State) :
    Host.Outcome State Fault Refusal := .next (lcMaintWrite ctx c (maintWord 2 base sizeLog2 all) s)
/-- CLEAN_INVALIDATE (R253). -/
def execCleanInvalidate (ctx : Ctx) (c : Ch) (base : LAddr) (sizeLog2 : BitVec 6) (all : Bool) (s : State) :
    Host.Outcome State Fault Refusal := .next (lcMaintWrite ctx c (maintWord 3 base sizeLog2 all) s)

-- ## IN_RETIRE (R323)

/-- The job an IN_RETIRE word asks for (Table 12-11). -/
def retireKind (v : Word) : Option JobKind :=
  let t := bits v 2 4
  let set := bits v 6 11
  match bits v 0 2 with
  | 1 => some (.retireSlot t set (bits v 17 4))
  | 2 => if set ≤ 255 then some (.retireSet t set) else none
  | 3 => some (.retirePage (v.extractLsb' 21 40))
  | _ => none
/-- The lists have room, and the target is not retired yet. -/
def retireFits (k : Channel) (j : JobKind) : Bool :=
  match j with
  | .retireSlot t set way => decide (k.setRet.length < 64) && !k.setRet.contains (t, set, way, false) &&
      decide ((k.setRet.filter fun r => r.1 == t && r.2.1 == set && !r.2.2.2).length < 4)
  | .retireSet t set => decide (k.setRet.length < 64) && !k.setRet.contains (t, set, 0, true)
  | .retirePage p => decide (k.pgRet.length < 32) && !k.pgRet.contains p
  | _ => false
/-- The range of a page retirement meets a hold of another context (R372). -/
def retireHeld (s : State) (ctx : Ctx) (j : JobKind) : Bool :=
  match j with
  | .retirePage p => heldByOther s ctx false (p.setWidth 46 <<< 6) 6
  | _ => false
/-- The register IN_RETIRE acts on a write. -/
def retireAct (ctx : Ctx) (c : Ch) (v : Word) (s : State) : State :=
  let a := addrC c 0xC 0x90
  let k := ch s c
  if retireBusy k then busy a s
  else
    match retireKind v with
    | none => refuse a s
    | some j =>
      if !retireFits k j || !(k.pwr == .on || k.pwr == .quiesced) || retireHeld s ctx j then refuse a s
      else
        let n := s.jrnNext
        respond 0 (startJob c j n ctx (jAccept ctx a 0x105 c v .running s))
/-- A write of IN_RETIRE. -/
def retireWrite (ctx : Ctx) (c : Ch) (v : Word) (s : State) : State :=
  hostCmd ctx (addrC c 0xC 0x90) (retireAct ctx c v) s
/-- RETIRE_SLOT (R323). -/
def execRetireSlot (ctx : Ctx) (c : Ch) (t : TileId) (set : BitVec 11) (way : BitVec 4) (s : State) :
    Host.Outcome State Fault Refusal :=
  .next (retireWrite ctx c (BitVec.ofNat 64 (1 + t.val * 2 ^ 2 + set.toNat * 2 ^ 6 + way.toNat * 2 ^ 17)) s)
/-- RETIRE_SET (R323). -/
def execRetireSet (ctx : Ctx) (c : Ch) (t : TileId) (set : BitVec 11) (s : State) : Host.Outcome State Fault Refusal :=
  .next (retireWrite ctx c (BitVec.ofNat 64 (2 + t.val * 2 ^ 2 + set.toNat * 2 ^ 6)) s)
/-- RETIRE_PAGE (R323). -/
def execRetirePage (ctx : Ctx) (c : Ch) (page : BitVec 40) (s : State) : Host.Outcome State Fault Refusal :=
  .next (retireWrite ctx c (BitVec.ofNat 64 (3 + page.toNat * 2 ^ 21)) s)

end Sys2Proof.Machine
end

