-- ==== Sys2Proof/Machine/Debug.lean ====
section
/-! DEFINITION. The diagnostic window (20, 21): banks held in raw access (R459, R460), raw array access (R470 to R473, R305,
R322), and pool access (R474). -/

namespace Sys2Proof.Machine

-- ## Raw-access holds (R458 to R460)

/-- DBG_CTL.RAW_EN and POOL_EN as applied. -/
def rawEn (s : State) : Bool := cfB s 0xB 0x40 0 1 == 1
/-- POOL_EN. -/
def poolEn (s : State) : Bool := cfB s 0xB 0x40 1 1 == 1
/-- RAW_LEASE in ticks. -/
def rawLease (s : State) : Nat := atLeast1 (cfB s 0xB 0x40 8 16) * 1024

/-- ENTER is accepted (R459). -/
def mayHold (s : State) (c : Ch) (t : TileId) (b : Bank) : Bool :=
  rawEn s && serving s c && !(b == .lc && (tile s c t).gated) &&
    match Tab.get? s.raw c with
    | none => true
    | some h => h.tile == t.val && h.bank == b
/-- The register DBG_RAW_CMD acts on a write (R459). -/
def dbgRawAct (ctx : Ctx) (v : Word) (s : State) : State :=
  let a := 0xB048
  let c := chN (bits v 2 4)
  let t := tileN (bits v 6 4)
  let b : Bank := if v.getLsbD 10 then .lc else .sf
  let n := s.jrnNext
  let go (p : Pending) : State :=
    let s := jAccept ctx a 0x005 c v .accepted s
    respond 0 (modCh c (fun k => { k with pendq := k.pendq ++ [p] }) { s with rawOpen := some n })
  if s.rawOpen.isSome then busy a s
  else
    match bits v 0 2 with
    | 1 => if mayHold s c t b then go (.rawHold t b n) else refuse a s
    | 2 => if rawHeld s c t b then go (.rawEnd t b n) else refuse a s
    | _ => refuse a s
/-- The word a DBG_RAW_CMD command writes. -/
def dbgRawWord (op : Nat) (c : Ch) (t : TileId) (b : Bank) : Word :=
  BitVec.ofNat 64 (op + c.val * 4 + t.val * 64 + (b == .lc).toNat * 1024)
/-- ENTER (R459). -/
def execEnter (ctx : Ctx) (c : Ch) (t : TileId) (b : Bank) (s : State) : Host.Outcome State Fault Refusal :=
  .next (hostCmd ctx 0xB048 (dbgRawAct ctx (dbgRawWord 1 c t b)) s)
/-- EXIT (R459). -/
def execExit (ctx : Ctx) (c : Ch) (t : TileId) (b : Bank) (s : State) : Host.Outcome State Fault Refusal :=
  .next (hostCmd ctx 0xB048 (dbgRawAct ctx (dbgRawWord 2 c t b)) s)

/-- The DBG_RAW_CMD of a sequence number has ended. -/
def rawDone (seq : Nat) (st : JState) (result : Nat) (s : State) : State :=
  jEnd seq st result 0 { s with rawOpen := if s.rawOpen == some seq then none else s.rawOpen }
/-- A bank is held from the quiet point on, or its lease renewed (R459, R460); an ENTER whose conditions have gone fails. -/
def holdAt (c : Ch) (t : Nat) (b : Bank) (seq : Nat) (s : State) : State :=
  if mayHold s c (tileN t) b then
    rawDone seq .done 0 { s with raw := Tab.put s.raw c ⟨t, b, s.tick + rawLease s⟩ }
  else rawDone seq .failed 4 s
/-- A bank is released at the quiet point; sequence number 0 stands for a lapse, which has no entry, and which an ENTER that has
renewed the hold since undoes (R460). -/
def holdEnds (c : Ch) (t : Nat) (b : Bank) (seq : Nat) (s : State) : State :=
  let renewed := seq == 0 && (Tab.get? s.raw c).any fun h => decide (s.tick < h.expiry)
  let s := if rawHeld s c (tileN t) b && !renewed then { s with raw := Tab.drop s.raw c } else s
  if seq = 0 then s else rawDone seq .done 0 s

/-- The lease of a channel's hold has run out (R460). -/
def rawLapsed (s : State) (c : Ch) : Option RawHold :=
  if !serving s c then none else (Tab.get? s.raw c).filter fun h => decide (h.expiry ≤ s.tick)
/-- RAW_HOLD_LAPSE (R460): the bank is released at the channel's next quiet point. -/
def execRawHoldLapse (c : Ch) (s : State) : Host.Outcome State Fault Refusal :=
  .next (match rawLapsed s c with
    | none => s
    | some h =>
      let p := Pending.rawEnd h.tile h.bank 0
      modCh c (fun k => if k.pendq.contains p then k else { k with pendq := k.pendq ++ [p] }) s)

-- ## Raw reads (R470, R471)

/-- The row DG_SEL selects: array, tile, row; none: nothing (R470). -/
def dgTarget (s : State) (c : Ch) : Option (Nat × TileId × Nat) :=
  let v := ctWord s ((Page.raw c).base + 0x40)
  let arr := bits v 0 4
  let t := bits v 4 4
  let row := bits v 8 13
  let rows := [8192, 256, 4096, 512, 512, 80, 320, 1024, 1024, 8192].getD arr 0
  if row < rows && (arr < 7 || 8 < arr || t = 0) then some (arr, tileN t, row) else none

/-- The 8-bit check field of a queue or journal word under a code (R311). -/
def checkField (par : Bool) (w : Word) : BitVec 8 := if par then BitVec.ofNat 8 (parity w).toNat else Config.hsiaoCheck w
/-- The check field of word w of a queue row as stored. -/
def qCheck (k : Channel) (row w : Nat) : BitVec 8 :=
  (Tab.getD k.qBad (row * 8 + w) (0, 0)).2 ^^^ checkField (queuePar k row w) (memWord k 9 0 row w)
/-- Word w of a queue row as stored. -/
def qStored (k : Channel) (row w : Nat) : Word := memWord k 9 0 row w ^^^ (Tab.getD k.qBad (row * 8 + w) (0, 0)).1

/-- A row as stored: its words, row bits or mode bits, column bits or check fields, ROW_VALID, OUTCOME, PLANTED. -/
structure RawRow where
  words : List Word
  row : BitVec 24
  col : Word
  valid : Bool
  outcome : Nat
  planted : Bool
  deriving DecidableEq, Repr

/-- OUTCOME (Table 21-8). -/
def Outcome3.code : Outcome3 → Nat | .good => 0 | .mended _ _ => 1 | .bad => 2
/-- OUTCOME of a queue word. -/
def WordRead.code : WordRead → Nat | .good _ => 0 | .mended _ => 1 | .bad _ => 2
/-- A row of array arr as a raw read finds it (R471). -/
def rawRow (k : Channel) (arr : Nat) (t : TileId) (row : Nat) : RawRow :=
  if arr = 5 || arr = 6 then
    let x := k.tiles[t]
    if !liveValid x t arr row then ⟨List.replicate 8 0, 0, 0, false, 0, false⟩
    else
      let ws := liveRow x t arr row
      let o := (overOf x t arr row).getD ⟨[], 0, 0, false, []⟩
      ⟨ws, (rowBits ws ^^^ o.row).setWidth 24, colBits ws ^^^ o.col, true, (overOutcome x t arr row).code, o.planted⟩
  else
    let key := rowKey arr (if arr = 9 then 0 else t) row
    match Tab.get? k.rows key with
    | none => ⟨List.replicate 8 0, 0, 0, false, 0, false⟩
    | some m =>
      if arr = 9 then
        ⟨(List.range 8).map (qStored k row), m.row,
          BitVec.ofNat 64 ((List.range 8).foldl (fun n w => n + (qCheck k row w).toNat * 2 ^ (8 * w)) 0), true,
          (List.range 8).foldl (fun n w => max n (readQWord k row w).code) 0, m.planted⟩
      else
        let ws := rowWords k arr t row
        ⟨ws, (rowBits ws ^^^ m.row.setWidth 8).setWidth 24, colBits ws ^^^ m.col, true, (rowOutcome k key).code, m.planted⟩

/-- The read as R308 to R311 have it: mended, or acted on under Table 12-3. -/
def rawReadActs (c : Ch) (arr : Nat) (t : TileId) (row : Nat) (s : State) : State :=
  if arr = 2 then readFrame c t (row / 16) (row % 16) (readTags c t (row / 16) s)
  else if arr ≤ 6 then scrubBlock c t arr row s
  else if arr ≤ 8 then readStore c (arr - 7) row s
  else if (Tab.get? (ch s c).rows (rowKey 9 0 row)).isSome then
    forEach (List.range 8) (fun w s => takeQWord c row w s) s
  else s

/-- R305: the debug master may not reach the data frame of a line in a locked region that does not name context 15. Only the tag
of a VALID frame places a line (DESIGN CHOICE, assumption 101: R305 does not speak of the others). -/
def frameLocked (s : State) (c : Ch) (t : TileId) (row : Nat) : Bool :=
  let e := tagAt (ch s c) t (row / 16) (row % 16)
  let l := frameLine c t (row / 16) e.tag
  let b := activeBank (ch s c)
  e.valid && (List.range 32).any fun n =>
    rgnLocked s c n && covers (rgnWord s c b n 0) (poolAddr l) && !(rgnWord s c b n 1).getLsbD (26 + 15)
/-- R472: why a raw access is denied; true for a denial of R305. -/
def rawDenied (s : State) (ctx : Ctx) (c : Ch) (write : Bool) : Option Bool :=
  if !rawEn s then some false
  else match dgTarget s c with
    | none => none
    | some (arr, t, row) =>
      if arr ≤ 4 && !rawHeld s c t (if arr ≤ 1 then .sf else .lc) then some false
      else if arr == 2 && ctx == 15 && frameLocked s c t row then some true
      else if 5 ≤ arr && write && cfC s c 0xC 0x88 0 1 == 0 then some false
      else none
/-- The answer to a denied raw access. -/
def rawDeny (c : Ch) (a : Nat) (gate : Bool) (s : State) : State :=
  denied a (if gate then ev c 0x49 none ((dgTarget s c).elim {} fun x => occTile x.2.1) s else s)

/-- A debug-master access takes the port of its bank (R232): the holder of a grant waits again at its rank, which is no cut-off. -/
def takePort (c : Ch) (t : TileId) (arr : Nat) (s : State) : State :=
  let b : Bank := if arr ≤ 1 then .sf else .lc
  if 5 ≤ arr then s
  else match grantOf (tile s c t) b with
    | none => s
    | some g =>
      let s := modTile c t (setGrant b none) s
      match entry? (tile s c t) g.ent with
      | none => if 160 ≤ g.ent then
          askPort c t b (.held g.ent) (BankWho.held g.ent).cls (ch s c).age s else s
      | some e => bankAsk c t b g.ent e s

/-- The address of a register of the raw access page of channel c. -/
def rawAddr (c : Ch) (o : Nat) : Nat := (Page.raw c).base + o
/-- A read of DG_RD (R470 to R472). -/
def dgRead (ctx : Ctx) (c : Ch) (s : State) : State :=
  match rawDenied s ctx c false with
  | some gate => rawDeny c (rawAddr c 0x48) gate s
  | none =>
    match dgTarget s c with
    | none => respond 0 s
    | some (arr, t, row) =>
      let r := rawRow (ch s c) arr t row
      let s := modCh c (fun k => { k with
        dgHold := Vector.ofFn fun w => r.words.getD w 0
        dgRow := r.row
        dgCol := r.col
        dgRes := BitVec.ofNat 4 (r.valid.toNat + r.outcome * 2 + r.planted.toNat * 8) }) s
      respond (r.words.getD 0 0) (rawReadActs c arr t row (takePort c t arr s))
/-- DG_RD (R471). -/
def execDgRd (ctx : Ctx) (c : Ch) (s : State) : Host.Outcome State Fault Refusal :=
  .next (hostAct ctx (rawAddr c 0x48) (dgRead ctx c) s)

-- ## Raw writes (R473, R322)

/-- What a raw write makes of a block: the new words and their difference from the check bits stored, given the old words, the
check bits stored, and the check bits of the write. -/
def wroteBlock (mode : Nat) (old new : List Word) (r0 : BitVec 8) (c0 : Word) (r1 : BitVec 8) (c1 : Word) :
    List Word × BitVec 8 × Word :=
  match mode with
  | 1 => (new, rowBits new ^^^ r0, colBits new ^^^ c0)
  | 2 => (old, rowBits old ^^^ r1, colBits old ^^^ c1)
  | _ => (new, 0, 0)
/-- A raw write of a queue row (R311, R312, R322): under mode 1 the check fields stay, under mode 2 the data. -/
def wroteQueue (mode : Nat) (row : Nat) (new : List Word) (chk : Word) (par planted : Bool) (k : Channel) : Channel :=
  let key := rowKey 9 0 row
  let bad (w : Nat) : Word × BitVec 8 :=
    match mode with
    | 1 => (new.getD w 0 ^^^ memWord k 9 0 row w, qCheck k row w ^^^ checkField par (memWord k 9 0 row w))
    | 2 => (0, chk.extractLsb' (8 * w) 8 ^^^ checkField par (qStored k row w))
    | _ => (0, 0)
  let word (w : Nat) : Word :=
    match mode with
    | 1 => memWord k 9 0 row w
    | 2 => qStored k row w
    | _ => new.getD w 0
  { k with
    mem := (List.range 8).foldl (fun m w => Tab.putWord m (key * 8 + w) (word w)) k.mem
    rows := Tab.put k.rows key ⟨if par then ~~~0 else 0, 0, planted⟩
    qBad := (List.range 8).foldl (fun b w =>
      if bad w == (0, 0) then Tab.drop b (row * 8 + w) else Tab.put b (row * 8 + w) (bad w)) k.qBad }
/-- The raw write of a row of array arr (R473); words 6 and 7 of a tracker row are not stored (R307). -/
def rawWrite (c : Ch) (arr : Nat) (t : TileId) (row mode : Nat) (en : Bool) (new : List Word) (chkRow : BitVec 8)
    (chkCol : Word) (s : State) : State :=
  let k := ch s c
  let old := rawRow k arr t row
  let new := if arr = 5 then new.take 6 ++ [0, 0] else new
  let planted := en && (mode == 1 || mode == 2)
  if arr = 9 then modCh c (wroteQueue mode row new chkCol (cfC s c 0xC 0x40 1 1 == 1) planted) s
  else
    let x := wroteBlock mode old.words new (old.row.setWidth 8) old.col chkRow chkCol
    if arr = 5 || arr = 6 then
      if x.2.1 == 0 && x.2.2 == 0 then settleOver c t arr row x.1 planted s
      else modTile c t (fun y => { y with
        overlay := Tab.put y.overlay (rowKey arr t row) ⟨x.1, x.2.1, x.2.2, planted, entryWords y arr row⟩ }) s
    else
      let key := rowKey arr t row
      let s := modCh c (fun k => { k with
        mem := (List.range 8).foldl (fun m w => Tab.putWord m (key * 8 + w) (x.1.getD w 0)) k.mem
        rows := Tab.put k.rows key ⟨x.2.1.setWidth 24, x.2.2, planted⟩ }) s
      if arr ≤ 1 then modCh c (bumpSets arr t row) s else s
where
  /-- The update counts of the sets of a snoop filter row advance (R224). -/
  bumpSets (arr : Nat) (t : TileId) (row : Nat) (k : Channel) : Channel :=
    if arr = 0 then bumpSet t (row / 4) k else (List.range 8).foldl (fun k j => bumpSet t (8 * row + j) k) k

/-- The register DG_WR acts on a write (R473). -/
def dgWrite (ctx : Ctx) (c : Ch) (v : Word) (s : State) : State :=
  let a := rawAddr c 0xF0
  match rawDenied s ctx c true with
  | some gate => rawDeny c a gate s
  | none =>
    match dgTarget s c with
    | none => refuse a s
    | some (arr, t, row) =>
      if !v.getLsbD 0 then refuse a s
      else
        let n := s.jrnNext
        let en := cfC s c 0xC 0x88 0 1 == 1
        let mode := if en then cfC s c 0xC 0x88 1 2 else 0
        let new := (List.range 8).map fun w => ctWord s (rawAddr c (0xA0 + 8 * w))
        let s := takePort c t arr (jAccept ctx a 0x109 c v .running s)
        let s := rawWrite c arr t row mode en new ((ctWord s (rawAddr c 0xE0)).setWidth 8) (ctWord s (rawAddr c 0xE8)) s
        respond 0 (jEnd n .done 0 0 s)
/-- DG_WR (R473). -/
def execDgWr (ctx : Ctx) (c : Ch) (s : State) : Host.Outcome State Fault Refusal :=
  .next (hostCmd ctx (rawAddr c 0xF0) (dgWrite ctx c 1) s)

-- ## Pool access (R474)

/-- The address of a register of the pool access page of channel c. -/
def poolPage (c : Ch) (o : Nat) : Nat := (Page.pool c).base + o
/-- The line latched from eight word registers. -/
def lineOf (f : Nat → Word) : Line := (List.range 8).foldl (fun l k => setLineWord l k (f k)) 0

/-- The open pool access is issued (R474): it takes an age stamp and its place in the line's order, and joins the chain, runs, or
meets a RETRY. A line of a retired page is answered as R324 answers a request. -/
def paIssue (c : Ch) (s : State) : State :=
  match (ch s c).paBusy with
  | none => s
  | some (seq, wr, old) =>
    let k := ch s c
    let l := k.paW.1
    let rid := k.nextRid
    let age := k.age
    let o := occOf l Config.poolAgent 0
    let s := modCh c (fun k => { k with
      age := age + 1, nextRid := rid + 1, lastPa := s.pclk + 1, paRetry := none, paBusy := some (seq, wr, rid)
      openReqs := k.openReqs.map fun q => if q.rid = old && q.port.isNone then { q with rid := rid } else q }) s
    if (ch s c).pgRet.contains (regionOf l) then
      paEnd c rid 0 (if wr then s else modCh c (fun k => { k with paData := 0, paPoison := true, paSrc := 1 }) s)
    else if maintHeld (ch s c) l then paRetryAt c rid 1 o s
    else if atMax s c 0 then paRetryAt c rid 0 o s
    else
      let joins := openLine (ch s c) l
      let s := if joins then ev c 0x1F none o s else s
      match poolEntry c l rid age (!joins) (entryFree s c l 0) s with
      | (s, some _) => if joins then planLine c l s else s
      | (s, none) =>
        let r : ReqIn := ⟨0, .a, Config.poolAgent, 0, l, 0, false, 0, 0, 0⟩
        ev c 0x29 none o (modCh c (fun k => { k with hoff := k.hoff ++
          [⟨none, r, paOp k, l, 0, age, rid, tileOf l, false, false⟩] }) s)

/-- The register PA_CMD acts on a write (R474). -/
def paAct (ctx : Ctx) (c : Ch) (v : Word) (s : State) : State :=
  let a := poolPage c 0x90
  let k := ch s c
  let op := bits v 0 2
  let l : LAddr := (ctWord s (poolPage c 0x40)).setWidth 46
  let o := occOf l Config.poolAgent 0
  let rights := gateCheck s c (.host ctx) l
  let wr := op == 2
  let okay := if wr then rights.wr else rights.rd
  if !poolEn s then denied a s
  else if k.paBusy.isSome then busy a s
  else if (op != 1 && op != 2) || k.pwr != .on || k.fence || k.cause != .none then refuse a s
  else if !okay then denied a (ev c 0x45 (some 2) o s)
  else
    let s := gateEvents c true rights.byMap 2 o s
    let n := s.jrnNext
    let s := jAccept ctx a 0x10A c v .accepted s
    let mask := ctWord s (poolPage c 0x48)
    let rid := (ch s c).nextRid
    let rop : ReqOp := if wr then (if mask = ~~~0 then .wrFull else .wrPtl) else .rdCur
    let s := modCh c (fun k => { k with
      paBusy := some (n, wr, rid)
      paW := (l, lineOf fun w => ctWord s (poolPage c (0x50 + 8 * w)), mask)
      openReqs := k.openReqs ++
        [⟨rid, none, rop, Config.poolAgent, 0, l, 0, k.epoch, s.pclk, true, false, false, false, false,
          2 * rid + 1⟩] }) s
    respond 0 (paIssue c s)
/-- READ (R474). -/
def execRead (ctx : Ctx) (c : Ch) (s : State) : Host.Outcome State Fault Refusal :=
  .next (hostCmd ctx (poolPage c 0x90) (paAct ctx c 1) s)
/-- WRITE (R474). -/
def execWrite (ctx : Ctx) (c : Ch) (s : State) : Host.Outcome State Fault Refusal :=
  .next (hostCmd ctx (poolPage c 0x90) (paAct ctx c 2) s)

/-- The 100 ticks of a retried pool access have passed, and the channel takes requests (R474). -/
def reissueDue (s : State) (c : Ch) : Bool :=
  serving s c && ((ch s c).pwr == .on || (ch s c).pwr == .draining) && !(ch s c).fence &&
    (ch s c).paRetry.any fun t => decide (t ≤ s.tick)
/-- POOL_ACCESS_REISSUE (R474). -/
def execPoolAccessReissue (c : Ch) (s : State) : Host.Outcome State Fault Refusal :=
  .next (if reissueDue s c then paIssue c s else s)

end Sys2Proof.Machine
end

