-- ==== Sys2Proof/Machine/Control.lean ====
section
/-! DEFINITION. The control plane (14): update strobes (R357 to R361), snapshots (R362, R363), page locks (R355), holds (R371 to
R373), the journal window (R370), arbiter levels (R237), and the quiet point that applies what
waits for it (R359). -/

namespace Sys2Proof.Machine

-- ## UPD_CMD (R358)

/-- The address of UPD_CMD. -/
def updCmd : Nat := 0x1040
/-- A synchronized swap of a channel is held for a group of the mask (R300): it is put to the channel's next quiet point. -/
def syncSwap (c : Ch) (groups : BitVec 32) (s : State) : State :=
  match (ch s c).swapOpen with
  | some (bank, true, seq, false) =>
    if groups.getLsbD (groupOf s (addrC c 0xB 0)) then
      modCh c (fun k => { k with pendq := k.pendq ++ [.swap bank seq] }) s
    else s
  | _ => s
/-- An instance command held for a group of the strobe goes on (R401, R403): a CREATE is admitted under the captured values, or
ends FAILED, CONFLICT with the channels it would set over. -/
def syncInst (o : InstOp) (caps : List (Nat × Word)) (s : State) : State :=
  let past := overIn s caps o.inst
  if o.op == 0 && past != 0 then instEnd o .failed 4 past.toNat s
  else
    let o := { o with sync := none, waiting := servingMask s }
    let s := jSet o.seq .running { s with instOps := s.instOps.map fun (p : InstOp) => if p.seq = o.seq then o else p }
    askChannels o .active s
/-- The register UPD_CMD acts on a write (R358, R361). -/
def updAct (ctx : Ctx) (v : Word) (s : State) : State :=
  let groups : BitVec 32 := v.setWidth 32
  if s.strobe.isSome then busy updCmd s
  else if groups == 0 then refuse updCmd s
  else
    let n := s.jrnNext
    let caps := captured s groups
    let mask := servingMask s
    let s := jAccept ctx updCmd 0x001 16 v .accepted s
    let s := { s with strobe := some ⟨n, groups, caps, mask, 0, ~~~mask, false⟩ }
    let s := forEach allCh (fun c s =>
      if mask.getLsbD c then
        syncSwap c groups (modCh c (fun k => { k with pendq := k.pendq ++ [.strobe n] }) s)
      else modCh c (fun k => { k with missed := k.missed ||| groups }) s) s
    let held := s.instOps.filter fun (o : InstOp) => o.sync.any fun g => groups.getLsbD g.toNat
    respond 0 (forEach held (fun o s => syncInst o caps s) s)
/-- UPD_CMD (R358). -/
def execUpdCmd (ctx : Ctx) (groups : BitVec 32) (s : State) : Host.Outcome State Fault Refusal :=
  .next (hostCmd ctx updCmd (updAct ctx (groups.setWidth 64)) s)
/-- STROBE_DISTRIBUTED (R358): the entry is RUNNING. -/
def execStrobeDistributed (s : State) : Host.Outcome State Fault Refusal :=
  .next (match s.strobe with
    | some x => if running s && !x.running then jSet x.seq .running { s with strobe := some { x with running := true } } else s
    | none => s)

-- ## Snapshots (R362, R363)

/-- The address of SNAP_CMD. -/
def snapCmd : Nat := 0x2040
/-- The register SNAP_CMD acts on a write (R362). -/
def snapAct (ctx : Ctx) (v : Word) (s : State) : State :=
  let chans : BitVec 16 := v.setWidth 16
  if s.snapOp.isSome then busy snapCmd s
  else if chans == 0 && !v.getLsbD 16 then refuse snapCmd s
  else
    let n := s.jrnNext
    let s := jAccept ctx snapCmd 0x002 16 v .accepted s
    respond 0 { s with snapOp := some (n, chans, v.getLsbD 16, s.tick + 4) }
/-- SNAP_CMD (R362). -/
def execSnapCmd (ctx : Ctx) (channels : BitVec 16) (block : Bool) (s : State) : Host.Outcome State Fault Refusal :=
  .next (hostCmd ctx snapCmd (snapAct ctx (BitVec.ofNat 64 (channels.toNat + block.toNat * 2 ^ 16))) s)

/-- The channels of a mask. -/
def chansOf (m : BitVec 16) : List Ch := allCh.filter fun c => m.getLsbD c.val
/-- The pages of a channel. -/
def chanPages (c : Nat) : List Page :=
  ((List.range 0x68).filter chanPageMapped).map (Page.chan c) ++ [.raw c, .pool c]
/-- The block-level pages. -/
def blkPages : List Page := ((List.range 0x18).filter blkPageMapped).map Page.blk
/-- Copy the CT fields of the selected pages to their held copies; the one CT register whose reset value is not 0 is the mask of
the pool access page. -/
def copyHeld (chans : BitVec 16) (block : Bool) (s : State) : State :=
  let sel (a : Nat) : Bool := match pageChan a with
    | some c => chans.getLsbD c
    | none => block
  let old := s.held.filter fun e => !sel e.1
  let new := (s.ct.filter fun e => sel e.1).foldl (fun (t : Tab Word) e => Tab.put t e.1 e.2) old
  let put (t : Tab Word) (c : Ch) : Tab Word := Tab.put t (poolPage c 0x48) (ctWord s (poolPage c 0x48))
  { s with held := (chansOf chans).foldl put new }
/-- The snapshot edge (R362, R363). -/
def snapEdge (seq : Nat) (chans : BitVec 16) (block : Bool) (s : State) : State :=
  let mask := servingMask s
  let took := chans &&& mask
  let skipped := chans &&& ~~~mask
  let pages := (chansOf took).flatMap (fun c => chanPages c.val) ++ (if block then blkPages else [])
  let s := copyHeld took block s
  let s := { s with
    snap := pages.foldl (fun (t : Tab Nat) p => Tab.put t p.base (seq % 2 ^ 48 + 2 ^ 48)) s.snap
    snapTime := s.tick, snapOp := none }
  jEnd seq .done (if skipped == 0 then 0 else 1) skipped.toNat s
/-- SNAPSHOT_EDGE (R362): the fourth REFCLK edge after acceptance. -/
def execSnapshotEdge (s : State) : Host.Outcome State Fault Refusal :=
  .next (match s.snapOp with
    | some (n, chans, block, t) => if running s && decide (t ≤ s.tick) then snapEdge n chans block s else s
    | none => s)

-- ## Page locks (R355, R356)

/-- Who applies the lock of a page: the channels in service that still have to. -/
def lockWaits (s : State) (base : Nat) : BitVec 16 :=
  if isTablePage base then servingMask s
  else match pageChan base with
    | some c => if serving s (chN c) then 1#16 <<< c else 0
    | none => 0
/-- PG_CTL of the page at `base` is written with LOCK set, and the page is not locked yet (R355). -/
def lockPage (ctx : Ctx) (base : Nat) (v : Word) (s : State) : State :=
  let n := s.jrnNext
  let mask := lockWaits s base
  let s := { s with wo := Tab.put s.wo (base + 0x10) (1#64 <<< 32) }
  let s := jAccept ctx (base + 0x10) 0x004 ((pageChan base).getD 16) v .accepted s
  let s := { s with locks := s.locks ++ [⟨n, base, mask⟩] }
  let s := forEach (chansOf mask) (fun c s =>
    modCh c (fun k => { k with pendq := k.pendq ++ [.lock base n] }) s) s
  if mask == 0 then lockBy 0 n s else s
/-- The register PG_CTL of the page at `base` acts on a write (R355, R356). -/
def pgCtlAct (ctx : Ctx) (base : Nat) (v : Word) (s : State) : State :=
  if pageLocked s base then respond 0 (lockedWrite ctx (base + 0x10) v s)
  else
    let s := { s with stg := Tab.put s.stg (base + 0x10) (v &&& 0xFFFFFFFF) }
    respond 0 (if v.getLsbD 32 then lockPage ctx base v s else s)
/-- PAGE_LOCK (R355): a write of PG_CTL of the page that holds an address. -/
def execPageLock (ctx : Ctx) (page : HpAddr) (value : Word) (s : State) : Host.Outcome State Fault Refusal :=
  .next (hostCmd ctx (baseOf page.toNat + 0x10) (pgCtlAct ctx (baseOf page.toNat) value) s)

-- ## Holds (R371 to R373)

/-- The address of HOLD_CMD. -/
def holdCmd : Nat := 0x4040
/-- A lease in ticks. -/
def leaseTicks (n : Nat) : Nat := atLeast1 n * 1024
/-- The lease of a hold has run out. -/
def Hold.lapsed (h : Hold) (tick : Nat) : Bool := h.granted && decide (h.expiry ≤ tick)
/-- A hold lapses (R373). -/
def lapseHold (n : Nat) (h : Hold) (s : State) : State :=
  let s := ctAdd (0x4108 + 16 * n) 24 40 1 { s with holds := Tab.drop s.holds n }
  recordBlock 0 1 0x1A [BitVec.ofNat 64 (n + h.owner.toNat * 2 ^ 6),
    BitVec.ofNat 64 (h.base.toNat + h.size * 2 ^ 46)] s
/-- Every lapse due on this tick: they come before a command of the same tick (R373). -/
def lapseAll (s : State) : State :=
  forEach (s.holds.filter fun e => e.2.lapsed s.tick) (fun (e : Nat × Hold) s => lapseHold e.1 e.2 s) s
/-- HOLD_LAPSE (R373). -/
def execHoldLapse (slot : Fin 64) (s : State) : Host.Outcome State Fault Refusal :=
  .next (match Tab.get? s.holds slot with
    | some h => if running s && h.lapsed s.tick then lapseHold slot h s else s
    | none => s)

/-- The ACQUIRE of a slot is granted: its lease starts (Table 14-8). -/
def grantHold (n : Nat) (h : Hold) (s : State) : State :=
  jEnd h.seq .done 0 n { s with holds := Tab.put s.holds n { h with granted := true, expiry := s.tick + h.lease } }
/-- HOLD_GRANTED (R371). -/
def execHoldGranted (slot : Fin 64) (s : State) : Host.Outcome State Fault Refusal :=
  .next (match Tab.get? s.holds slot with
    | some h => if running s && !h.granted && !rangeOpen s h.owner h.base h.size then grantHold slot h s else s
    | none => s)

/-- ACQUIRE. -/
def acquireAct (ctx : Ctx) (v : Word) (s : State) : State :=
  let base : LAddr := v.extractLsb' 2 46
  let size := bits v 48 6
  match (List.range 64).find? fun n => (Tab.get? s.holds n).isNone with
  | none => refuse holdCmd s
  | some n =>
    if 46 < size || base.toNat % 2 ^ size ≠ 0 || s.holds.any (fun e => overlaps e.2.base e.2.size base size) then
      refuse holdCmd s
    else
      let seq := s.jrnNext
      let waits := rangeOpen s ctx base size
      let s := jAccept ctx holdCmd 0x003 16 v (if waits then .pending else .accepted) s
      let h : Hold := ⟨base, size, ctx, false, leaseTicks (bits v 54 10), 0, seq⟩
      respond 0 (if waits then { s with holds := Tab.put s.holds n h } else grantHold n h s)
/-- A slot is freed; a PENDING ACQUIRE in it ends FAILED, ABORTED. -/
def freeHold (n : Nat) (h : Hold) (s : State) : State :=
  let s := { s with holds := Tab.drop s.holds n }
  if h.granted then s else jEnd h.seq .failed 3 0 s
/-- RENEW, RELEASE and BREAK of a slot. -/
def slotAct (ctx : Ctx) (v : Word) (s : State) : State :=
  let n := bits v 2 6
  let op := bits v 0 2
  match Tab.get? s.holds n with
  | none => refuse holdCmd s
  | some h =>
    let ok := match op with
      | 1 => h.granted && h.owner == ctx
      | 2 => h.owner == ctx
      | _ => ctx == 0
    if !ok then refuse holdCmd s
    else
      let seq := s.jrnNext
      let s := jAccept ctx holdCmd 0x003 16 v .accepted s
      let lease := leaseTicks (bits v 54 10)
      let s := if op = 1 then { s with holds := Tab.put s.holds n { h with lease := lease, expiry := s.tick + lease } }
        else freeHold n h s
      respond 0 (jEnd seq .done 0 0 s)
/-- The register HOLD_CMD acts on a write (R371). -/
def holdAct (ctx : Ctx) (v : Word) (s : State) : State :=
  let s := lapseAll s
  if bits v 0 2 = 0 then acquireAct ctx v s else slotAct ctx v s
/-- A hold command of a context. -/
def holdWrite (ctx : Ctx) (v : Nat) (s : State) : State := hostCmd ctx holdCmd (holdAct ctx (BitVec.ofNat 64 v)) s
/-- ACQUIRE (R371). -/
def execAcquire (ctx : Ctx) (base : LAddr) (sizeLog2 : BitVec 6) (lease : BitVec 10) (s : State) :
    Host.Outcome State Fault Refusal :=
  .next (holdWrite ctx (base.toNat * 4 + sizeLog2.toNat * 2 ^ 48 + lease.toNat * 2 ^ 54) s)
/-- RENEW (R371). -/
def execRenew (ctx : Ctx) (slot : BitVec 6) (lease : BitVec 10) (s : State) : Host.Outcome State Fault Refusal :=
  .next (holdWrite ctx (1 + slot.toNat * 4 + lease.toNat * 2 ^ 54) s)
/-- RELEASE (R371). -/
def execRelease (ctx : Ctx) (slot : BitVec 6) (s : State) : Host.Outcome State Fault Refusal :=
  .next (holdWrite ctx (2 + slot.toNat * 4) s)
/-- BREAK (R371). -/
def execBreakHold (ctx : Ctx) (slot : BitVec 6) (s : State) : Host.Outcome State Fault Refusal :=
  .next (holdWrite ctx (3 + slot.toNat * 4) s)

-- ## The journal window (R370)

/-- The cursor of a context. -/
def jrnCur (s : State) (ctx : Ctx) : Nat := bits (ctWord s (0x3040 + 8 * ctx.toNat)) 0 48
/-- Set a context's cursor: its latch no longer answers. -/
def setCur (ctx : Ctx) (v : Nat) (s : State) : State :=
  { s with
    ct := Tab.put s.ct (0x3040 + 8 * ctx.toNat) (BitVec.ofNat 64 (v % 2 ^ 48))
    windows := Tab.drop s.windows ctx.toNat }
/-- JRN_CUR (R370): a write presets the issuing context's own cursor, whatever k the address names. -/
def execJrnCur (ctx : Ctx) (k : Fin 16) (value : Word) (s : State) : Host.Outcome State Fault Refusal :=
  .next (hostCmd ctx (0x3040 + 8 * k.val) (fun s => respond 0 (setCur ctx value.toNat s)) s)

/-- The four words of the entry that window slot j shows: word 0 carries POISON where a word failed its code. -/
def windowWords (ctx : Ctx) (j : Nat) (s : State) : State × List Word :=
  let n := jrnCur s ctx + j
  if n < max 1 (s.jrnNext - 65536) || s.jrnNext ≤ n then (s, [0, 0, 0, 0])
  else
    let r := (List.range 4).foldl (fun (r : State × List WordRead) w =>
      let x := takeJWord (jSlot n) w r.1
      (x.1, r.2 ++ [x.2])) (s, [])
    let ws := r.2.map (·.value)
    let w0 := (ws.getD 0 0 &&& ~~~(1#64 <<< 55)) ||| (if r.2.any (·.poison) then 1#64 <<< 55 else 0)
    (r.1, w0 :: ws.drop 1)
/-- A read of a window word (R370): word 0 latches its entry; word 3 of slot 7 advances the cursor. -/
def windowRead (ctx : Ctx) (j w : Nat) (s : State) : State :=
  if w = 0 then
    let r := windowWords ctx j s
    let x : Window := ⟨some j, r.2.getD 1 0, r.2.getD 2 0, r.2.getD 3 0⟩
    respond (r.2.getD 0 0) { r.1 with windows := Tab.put r.1.windows ctx.toNat x }
  else
    let v := match Tab.get? s.windows ctx.toNat with
      | some x => if x.slot == some j then (match w with | 1 => x.w1 | 2 => x.w2 | _ => x.w3) else 0
      | none => 0
    respond v (if j = 7 ∧ w = 3 then setCur ctx (jrnCur s ctx + 8) s else s)
/-- JRN_WINDOW_READ (R370). -/
def execJrnWindowRead (ctx : Ctx) (slot : Fin 8) (word : Fin 4) (s : State) : Host.Outcome State Fault Refusal :=
  .next (hostAct ctx (0x3100 + 32 * slot.val + 8 * word.val) (windowRead ctx slot word) s)

-- ## Arbiter levels (R237)

/-- The register ARB_PRIO of channel c acts on a write (R237). -/
def arbAct (ctx : Ctx) (c : Ch) (v : Word) (s : State) : State :=
  let a := addrC c 7 0x58
  if (ch s c).newLevels.isSome || cmOpen s a then busy a s
  else
    let n := s.jrnNext
    let s := jAccept ctx a 0x104 c v .running s
    respond 0 (modCh c (fun k => { k with newLevels := some (v.setWidth 27, n) }) s)
/-- ARB_PRIO (R237). -/
def execArbPrio (ctx : Ctx) (c : Ch) (levels : BitVec 27) (s : State) : Host.Outcome State Fault Refusal :=
  .next (hostCmd ctx (addrC c 7 0x58) (arbAct ctx c (levels.setWidth 64)) s)
/-- ARB_LEVELS_IN_FORCE (R237): all nine levels change at once. -/
def execArbLevelsInForce (c : Ch) (s : State) : Host.Outcome State Fault Refusal :=
  .next (match (if running s then (ch s c).newLevels else none) with
    | some (v, n) => jEnd n .done 0 0 (modCh c (fun k => { k with levels := v, newLevels := none }) s)
    | none => s)

-- ## The quiet point (R359)

/-- The PRIV bits of a channel's agent table differ (R453). -/
def privChanged (k k' : Channel) : Bool :=
  (List.range 128).any fun i => (chTable k (0x5100 + 8 * i) &&& 0x400000004) != (chTable k' (0x5100 + 8 * i) &&& 0x400000004)
/-- A region lock at the quiet point (R303). -/
def locksAt (c : Ch) (b : BitVec 32) (seq : Nat) (s : State) : State :=
  jEnd seq .done 0 0
    (forEach ((List.range 32).filter b.getLsbD) (fun n s => lockRegion c (activeBank (ch s c)) n s) s)
/-- A swap at the quiet point (R300): it is RUNNING until R302 ends it. -/
def swapAt (c : Ch) (bank : Bool) (seq : Nat) (s : State) : State :=
  jSet seq .running (modCh c (fun k => { k with
    tgActive := bank, swapOpen := k.swapOpen.map fun x => (x.1, x.2.1, x.2.2.1, true) }) (unripe (.swap c) s))
/-- What changes the registers and rules of the channel. -/
def quietRules (c : Ch) (p : Pending) (s : State) : State :=
  match p with
  | .lock page seq => lockAt c page seq s
  | .regionLock b seq => locksAt c b seq s
  | .strobe seq =>
    (match s.strobe with
    | some x => if x.seq = seq then applyValues c x.values s else s
    | none => s)
  | .swap bank seq => swapAt c bank seq s
  | _ => s
/-- The order in which the registers change: page locks, region locks, strobed values, the swap. -/
def quietRank : Pending → Nat
  | .lock _ _ => 0 | .regionLock _ _ => 1 | .strobe _ => 2 | .swap _ _ => 3 | _ => 4
/-- A pending change of itself changes the gate's rules (R301). -/
def isRule : Pending → Bool
  | .regionLock _ _ => true
  | .swap _ _ => true
  | _ => false
/-- An agent is LIVE again in the channel (R344). -/
def admitAt (c : Ch) (a : AgentId) (seq : Nat) (s : State) : State :=
  let s := modCh c (fun k => { k with life := Tab.put k.life a.toNat .live }) s
  { s with agentOps := s.agentOps.map fun (o : AgentOp) =>
    if o.seq = seq then { o with waiting := o.waiting &&& ~~~(1#16 <<< c.val) } else o }
/-- What follows once the registers have changed. -/
def quietRest (c : Ch) (p : Pending) (s : State) : State :=
  match p with
  | .inst i st seq => applyInst c i st seq s
  | .admission a seq => admitAt c a seq s
  | .rawHold t b seq => holdAt c t b seq s
  | .rawEnd t b seq => holdEnds c t b seq s
  | .strobe _ => strobeBy c false s
  | .resume => enterOn c s
  | _ => s
/-- The quiet point: the clear-sky work in flight is over, the ingress pauses, and everything that waited for it is applied on
one edge (R359, R300, R301, R303, R355, R398, R453); waiting anchors and requests take what entries the new shares leave them
(R193, R212, R213), and waiters are planned under the new values (R187), but for those of a fenced channel (R346). -/
def quietAct (c : Ch) (s : State) : State :=
  let s := landAll c s
  let ps := (ch s c).pendq
  let s0 := modCh c (fun k => { k with pendq := [], pause := s.pclk + 16 }) s
  let s := ev c 0x55 none {} (forEach (ps.mergeSort fun p q => quietRank p ≤ quietRank q) (quietRules c) s0)
  let rules := ps.any isRule || rulesChanged s0 s c || privChanged (ch s0 c) (ch s c)
  let s := forEach ps (quietRest c) (if rules then ruleChange c s else s)
  if enginesRun s c then
    let s := serveWaiters c (forEach allTiles (fun t s => forEach (tile s c t).waits (fun _ s => bindNext c t s) s) s)
    forEach allTiles (replan c) s
  else s
/-- QUIET_POINT (R359): a channel takes one where something waits for it. -/
def execQuietPoint (c : Ch) (s : State) : Host.Outcome State Fault Refusal :=
  .next (if serving s c && !(ch s c).pendq.isEmpty then quietAct c s else s)

end Sys2Proof.Machine
end

