-- ==== Sys2Proof/Machine/Live.lean ====
section
/-! DEFINITION. Clocks and liveness (02, 04, 20): the REFCLK tick with its barometer readings and stretch decision (R114 to R120,
R457), the measurement of PCLK (R115), the block's own alive outputs (R57), and the partners it watches (R64 to R66). -/

namespace Sys2Proof.Machine

-- ## The REFCLK tick (R114, R116, R117, R457)

/-- T_on for a measured frequency; 0 at 1,600 MHz or less (R116, R117). -/
def threshOf (mhz : Nat) : Nat := if mhz ≤ 1600 then 0 else (mhz * 19 + 999) / 1000 + 4
/-- VLOW as applied. -/
def vlow (s : State) (c : Ch) : Bool := cfC s c 2 0x40 1 1 == 1
/-- The stretch decision takes a value: the ports see it three edges later (R38), and what set it is kept (R120). -/
def decide' (d baro : Bool) (now : Nat) (k : Channel) : Channel :=
  if k.decision == d then k
  else { k with decision := d, decEdge := now + 3, setByBaro := if d then baro else k.setByBaro }
/-- The decision at the end of a tick whose lowest reading is m (R115 to R117). -/
def judge (vl : Bool) (m now : Nat) (k : Channel) : Channel :=
  let t := threshOf k.mhz.toNat
  let below := decide (m < t)
  let k := { k with minNow := BitVec.ofNat 12 m, thresh := BitVec.ofNat 12 t, causeBaro := below }
  if !k.pclkValid then decide' true below now { k with good := 0 }
  else if t = 0 then decide' false below now { k with good := 0 }
  else if below || vl then decide' true below now { k with good := 0 }
  else
    let good := if t + 2 ≤ m then k.good + 1 else 0
    if 4 ≤ good then decide' false below now { k with good := good } else { k with good := good }
/-- The 17 readings of a channel. -/
def readingsOf (rs : List (List (BitVec 12))) (c : Ch) : List (BitVec 12) :=
  (List.range 17).map fun i => (rs.getD c []).getD i 0
/-- The lowest of them. -/
def lowest (l : List (BitVec 12)) : Nat := l.foldl (fun m r => min m r.toNat) 4095
/-- BARO_CTL.ALARM as applied. -/
def alarmLevel (s : State) : Nat := cfB s 8 0x40 0 12
/-- The alarm of a channel at the end of a tick (R457). -/
def alarmTick (c : Ch) (m : Nat) (s : State) : State :=
  let bit : BitVec 16 := 1#16 <<< c.val
  if m < alarmLevel s then { s with alarm := s.alarm ||| bit, alarmGood := Tab.drop s.alarmGood c }
  else
    let n := Tab.getD s.alarmGood c 0 + 1
    if 64 ≤ n then { s with alarm := s.alarm &&& ~~~bit, alarmGood := Tab.drop s.alarmGood c }
    else { s with alarmGood := Tab.put s.alarmGood c n }
/-- The counters of a tick (0x00, 0x02, 0x03, 0x2B, 0x2C). -/
def tickEvents (c : Ch) (s : State) : State :=
  let k := ch s c
  let sum (q : Option Nat) (e n : Nat) (s : State) : State := count c e q n {} s
  let s := ev c 0x00 none {} s
  let s := sum (some 1) 0x02 (k.loops.getD 16 0).toNat (sum (some 0) 0x02 k.minNow.toNat s)
  let low := (if k.causeBaro then [0] else []) ++ if k.decision then [1] else []
  let s := if low.isEmpty then s else countAll c 0x03 low 1 {} s
  sum none 0x2C (k.tiles.toList.foldl (fun n t => n + waiters t) 0) (sum none 0x2B (entriesUsed k) s)
/-- A channel that is powered: its loops run. -/
def powered (k : Channel) : Bool := k.pwr != .gated && k.pwr != .off
/-- The end of a tick in channel c. -/
def tickIn (rs : List (List (BitVec 12))) (c : Ch) (s : State) : State :=
  let s := if powered (ch s c) then
      let l := readingsOf rs c
      modCh c (fun k => judge (vlow s c) (lowest l) s.pclk { k with loops := l }) s
    else s
  let s := if enginesRun s c then rowsTick c s else s
  if serving s c then tickEvents c (alarmTick c (ch s c).minNow.toNat (readyTick c (watchTick c s)))
  else { s with alarm := s.alarm &&& ~~~(1#16 <<< c.val), alarmGood := Tab.drop s.alarmGood c }
/-- What holds as a tick ends and ends with it (R302, R405, R421, R475). -/
def ripened (s : State) : List Ripe :=
  (allCh.filter (swapOver s)).map .swap ++
    ((s.instOps.filter fun o => o.op == 1 && (quiescedOver s o.inst).isSome).map fun o => .quiesce o.inst) ++
    (allCh.filter (drainOver s)).map .drain
/-- The edge that ends a tick: strobes, page locks, admissions and instance commands that every channel has applied end (R355,
R360, R401, R454, R475). -/
def edgeEnds (s : State) : State := instEnds (admitEnds (lockEnds (strobeEnd s)))
/-- BAROMETER_TICK (R114, R116): PCLK edges pass, then a REFCLK tick ends; it is the model's one passage of REFCLK time.
`gap.taken` is how many responses the host has taken by then (R39, assumption 60). -/
def execBarometerTick (gap : TickIn) (readings : List (List (BitVec 12))) (s : State) : Host.Outcome State Fault Refusal :=
  .next (let s := passEdges gap.edges { s with rspQ := s.rspQ.drop gap.taken }
    if s.coldN then edgeEnds (forEach allCh (tickIn readings) { forEach allCh writeSamples s with tick := s.tick + 1, ripe := ripened s }) else s)

-- ## Measuring PCLK (R115)

/-- Two window counts lie within 16 edges. -/
def near (a b : Nat) : Bool := decide (a ≤ b + 16 ∧ b ≤ a + 16)
/-- A window of 64 ticks has ended in a powered channel. -/
def windowDue (s : State) (c : Ch) : Bool :=
  running s && powered (ch s c) && decide ((ch s c).winStart + 64 ≤ s.tick)
/-- PCLK_MHZ and PCLK_VALID at the end of a window that counted n edges, and the decision they fix (R115, R117). -/
def windowEnd (tick pclk n : Nat) (k : Channel) : Channel :=
  let good := n ≠ 0 && (match k.winLast with | none => true | some m => near n m)
  let run := if good then k.winGood + 1 else 0
  let valid := good && (k.pclkValid || decide (2 ≤ run))
  let k := { k with
    mhz := BitVec.ofNat 12 (n * 25 / 16), winStart := tick, winCount := pclk, winLast := some n, winGood := run
    good := if valid && !k.pclkValid then 0 else k.good, pclkValid := valid
    thresh := BitVec.ofNat 12 (threshOf (BitVec.ofNat 12 (n * 25 / 16)).toNat)
    causeBaro := decide (k.minNow.toNat < threshOf (BitVec.ofNat 12 (n * 25 / 16)).toNat) }
  if !valid then decide' true k.causeBaro pclk k
  else if threshOf k.mhz.toNat = 0 then decide' false false pclk k
  else k
/-- PCLK_WINDOW_END (R115). -/
def execPclkWindowEnd (c : Ch) (s : State) : Host.Outcome State Fault Refusal :=
  .next (if windowDue s c then
    upGoes c (ch s c).winLast.isSome (modCh c (fun k => windowEnd s.tick s.pclk (s.pclk - k.winCount) k) s) else s)

-- ## The block's own alive outputs (R57)

/-- ALIVE_TOGGLE (R57): HA_ALIVE[c] toggles on every 32nd tick, fenced or not. -/
def execAliveToggle (c : Ch) (s : State) : Host.Outcome State Fault Refusal :=
  .next (if serving s c && decide ((ch s c).aliveTick + 32 ≤ s.tick) then
    modCh c (fun k => { k with alive := !k.alive, aliveTick := s.tick }) s else s)

-- ## Partners (R64 to R66)

/-- AD_GRACE and MC_GRACE as applied: below 128 they are applied as 128 (R67). -/
def adGrace (s : State) : Nat := max 128 (cfB s 0 0x50 0 16)
/-- MC_GRACE. -/
def mcGrace (s : State) : Nat := max 128 (cfB s 0 0x50 16 16)
/-- The memory controller of channel c is monitored (R64). -/
def mcWatched (s : State) (c : Ch) : Bool :=
  (appWord s 0x78).getLsbD c.val && ((ch s c).pwr == .on || (ch s c).pwr == .draining)
/-- The grace timer of adapter k has run out (R65). -/
def adLate (s : State) (k : Fin 128) : Bool :=
  running s && adEnabled s k && !s.adLost.getLsbD k.val && decide (Tab.getD s.adSince k 0 + adGrace s ≤ s.tick)
/-- The grace timer of memory controller c has run out. -/
def mcLate (s : State) (c : Ch) : Bool :=
  running s && mcWatched s c && !s.mcLost.getLsbD c.val && decide (Tab.getD s.mcSince c 0 + mcGrace s ≤ s.tick)

/-- The listed agents that the agent table assigns to adapter k. -/
def adapterAgents (s : State) (k : Nat) : List AgentId :=
  allAgents.filter fun a => agentKindB s a != 0 && agentAdapter s a == k
/-- Adapter k is lost (R65): its status bit, a record in every channel in service, and its agents dead. -/
def loseAdapter (k : Fin 128) (s : State) : State :=
  let as := adapterAgents s k
  let s := { s with adLost := s.adLost ||| (1#128 <<< k.val) }
  let w := BitVec.ofNat 64 (k.val + min as.length 255 * 2 ^ 8)
  forEach as declareDead (forEach allCh (fun c s => record c 2 3 0x04 [w] false s) s)
/-- ADAPTER_LOST (R65). -/
def execAdapterLost (k : Fin 128) (s : State) : Host.Outcome State Fault Refusal :=
  .next (if adLate s k then loseAdapter k s else s)
/-- Memory controller c is lost (R65, R58). -/
def loseMc (c : Ch) (s : State) : State := fenceFor c .mcLost { s with mcLost := s.mcLost ||| (1#16 <<< c.val) }
/-- MC_LOST (R65). -/
def execMcLost (c : Ch) (s : State) : Host.Outcome State Fault Refusal :=
  .next (if mcLate s c then loseMc c s else s)

/-- HA_AD_ALIVE[k] toggles (R65, R66): a loss due comes first; a loss of an earlier tick is over, and the timer restarts. That
the transition of the loss's own tick leaves the status bit set is the model's choice (assumption 104). -/
def adToggles (k : Fin 128) (s : State) : State :=
  let due := adLate s k
  let s := if due then loseAdapter k s else s
  let s := { s with adLevel := s.adLevel ^^^ (1#128 <<< k.val), adSince := Tab.put s.adSince k s.tick }
  if !due && adEnabled s k then { s with adLost := s.adLost &&& ~~~(1#128 <<< k.val) } else s
/-- AD_ALIVE_TRANSITION (R66). -/
def execAdAliveTransition (k : Fin 128) (s : State) : Host.Outcome State Fault Refusal := .next (adToggles k s)
/-- HA_MC_ALIVE[c] toggles (R65, R66, assumption 104). -/
def mcToggles (c : Ch) (s : State) : State :=
  let due := mcLate s c
  let s := if due then loseMc c s else s
  let s := { s with mcLevel := s.mcLevel ^^^ (1#16 <<< c.val), mcSince := Tab.put s.mcSince c s.tick }
  if !due && mcWatched s c then { s with mcLost := s.mcLost &&& ~~~(1#16 <<< c.val) } else s
/-- MC_ALIVE_TRANSITION (R66). -/
def execMcAliveTransition (c : Ch) (s : State) : Host.Outcome State Fault Refusal := .next (mcToggles c s)

end Sys2Proof.Machine
end

