-- ==== Sys2Proof/Machine/Flags.lean ====
section
/-! DEFINITION. The level flags of the block: every status (ST) field as a function of the state (R353), the PG_STATUS bits of
every page (R350), the event sources and interrupt lines (R390 to R392), and what a register reads as (R352). -/

namespace Sys2Proof.Machine

/-- n bits of which bit i says whether p i holds. -/
def bitsOf (n : Nat) (p : Nat → Bool) : Nat := (List.range n).foldl (fun m i => m + (p i).toNat * 2 ^ i) 0
/-- A bit at a place. -/
def bitAt (b : Bool) (i : Nat) : Nat := b.toNat * 2 ^ i
/-- A number in a field of n bits: free where it does not fit (assumption 14). -/
def fitted (n v : Nat) : Nat := if v < 2 ^ n then v else Config.tooWide n v % 2 ^ n
/-- The channel numbered n. -/
def chn (s : State) (n : Nat) : Channel := ch s (chN n)
/-- The channel numbered n is out of reset and not GATED or OFF. -/
def up? (s : State) (n : Nat) : Bool := serving s (chN n)
/-- HA_FENCE[c] (R59): high while the channel is fenced or clamped. -/
def fenceLine (s : State) (n : Nat) : Bool := !up? s n || (chn s n).fence

-- ## Channel control, ingress, memory port (21)

/-- CH_STATUS (Table 21-2, R466). -/
def chStatus (s : State) (n : Nat) : Nat :=
  let k := chn s n
  let full (p : Port) : Bool := decide (8 ≤ handoffs k p)
  if !up? s n then bitAt true 3 + bitAt true 7
  else
    bitAt k.stallVrs 0 + bitAt k.stallDout 1 + bitAt k.stallSno 2 + bitAt (fenceLine s n) 3 + bitAt (full .a) 4 +
      bitAt (full .b) 5 + bitAt (decide (dinFree k .a < 4) || decide (dinFree k .b < 4)) 6 + bitAt (k.pwr != .on) 7
/-- CH_INFO (Table 21-2). -/
def chInfo (s : State) (n : Nat) : Nat := n + (chn s n).pwr.code * 2 ^ 4 + bitAt (s.imgValid.getLsbD n) 7
/-- IG_ST (Table 21-3). -/
def igSt (k : Channel) : Nat :=
  handoffs k .a + handoffs k .b * 2 ^ 4 + dinFree k .a * 2 ^ 16 + dinFree k .b * 2 ^ 32
/-- MP_ST (Table 21-4). -/
def mpSt (k : Channel) : Nat := mrsUsed k + k.mrsHeld.length * 2 ^ 16 + min k.mrq.length 255 * 2 ^ 32
/-- MP_DD (Table 21-4). -/
def mpDd (s : State) (n : Nat) : Nat := (chn s n).lastDd % 2 ^ 40 + bitAt (ddSettled s (chN n)) 40

-- ## Clear-sky (4)

/-- CS_PACE (Table 4-8). -/
def csPace (s : State) (n : Nat) : Nat :=
  let k := chn s n
  k.minNow.toNat + k.thresh.toNat * 2 ^ 12 + (k.loops.getD 16 0).toNat * 2 ^ 24 + k.mhz.toNat * 2 ^ 36 +
    bitAt k.pclkValid 48 + bitAt k.decision 49 + bitAt k.strA 50 + bitAt k.strB 51 + bitAt k.causeBaro 52 +
    bitAt (vlow s (chN n) && decide (1600 < k.mhz.toNat)) 53
/-- CS_TILE_PACE_j (Table 4-9). -/
def csTilePace (k : Channel) (j : Nat) : Nat :=
  (List.range 4).foldl (fun n i => n + (k.loops.getD (4 * j + i) 0).toNat * 2 ^ (16 * i)) 0

-- ## Snoop filter (5) and its bank pages (21)

/-- SF_OCC (Table 5-7): single-slot cirrus, wide and stratus entries. -/
def sfOcc (k : Channel) : Nat :=
  let l := allSlots k
  let wide := (l.filter (·.2.2.2.isWide)).length
  let strat := (l.filter (·.2.2.2.isStratus)).length
  (l.length - wide - strat) + wide * 2 ^ 20 + strat * 2 ^ 36
/-- SF_IQ_i.OVER (R146). -/
def sfOver (s : State) (n i : Nat) : Bool :=
  decide (sfQuota s (chN n) (BitVec.ofNat 8 i) < sfCount (chn s n) (BitVec.ofNat 8 i))
/-- The status fields of SF_IQ_i (Table 5-8). -/
def sfIq (s : State) (n i : Nat) : Nat := sfCount (chn s n) (BitVec.ofNat 8 i) * 2 ^ 20 + bitAt (sfOver s n i) 40
/-- Some tile runs EVICT_MAX evictions (R150). -/
def evictFull (s : State) (n : Nat) : Bool :=
  (chn s n).tiles.toList.any fun t => decide (evictMax s (chN n) ≤ evictUsed t)
/-- SFB_ST of a tile (Table 21-5). -/
def sfbSt (k : Channel) (t : Nat) : Nat :=
  let l := (allSlots k).filter (·.1 == t)
  let x := k.tiles[tileN t]
  l.foldl (fun m e => m + e.2.2.2.slots) 0 + (l.filter (·.2.2.2.isWide)).length * 2 ^ 16 +
    (l.filter (·.2.2.2.isStratus)).length * 2 ^ 28 + evictUsed x * 2 ^ 44 + x.cursor.toNat * 2 ^ 48 +
    x.demoted.length * 2 ^ 52
/-- SFB_DLIST_j (Table 21-5). -/
def sfbDlist (x : Tile) (j : Nat) : Nat :=
  match x.demoted[j]? with
  | some g => g.toNat + 2 ^ 40
  | none => 0

-- ## Tracker (7, 8)

/-- TR_POOL_ST.GEN_EMPTY (Table 8-11). -/
def genEmpty (s : State) (n : Nat) : Nat := bitsOf 16 fun t => genFree s (chN n) (tileN t) == 0
/-- TR_POOL_ST (Table 8-11). -/
def trPoolSt (s : State) (n : Nat) : Nat :=
  let k := chn s n
  genEmpty s n + entriesUsed k * 2 ^ 16 + (k.tiles.toList.foldl (fun m t => m + waiters t) 0) * 2 ^ 32
/-- TR_ANCHOR_ST (Table 7-9). -/
def trAnchorSt (s : State) (n : Nat) : Nat :=
  let k := chn s n
  let bound := (k.anchors.filter fun x => x.2.bound.isSome).length
  bound + (k.anchors.length - bound) * 2 ^ 9 + bitsOf 16 (fun t => !reserveFree s (chN n) (tileN t)) * 2 ^ 18
/-- TR_IQ_i.AT_MAX. -/
def trAtMax (s : State) (n i : Nat) : Bool := atMax s (chN n) (BitVec.ofNat 8 i)
/-- The status fields of TR_IQ_i (Table 8-12). -/
def trIq (s : State) (n i : Nat) : Nat :=
  let c := chN n
  let v := BitVec.ofNat 8 i
  let m := trCount (chn s n) v
  m * 2 ^ 24 + bitAt (decide (m < trMin s c v)) 36 + bitAt (trAtMax s n i) 37

-- ## Engines and arbiters (8)

/-- Engine e of a channel has been taken out by a fault. -/
def engFailed (k : Channel) (e : Nat) : Bool :=
  let x := k.tiles[tileN (e / 2)]
  if e % 2 = 1 then x.fail1 else x.fail0
/-- EN_ST (Table 8-14). -/
def enSt (s : State) (n : Nat) : Nat :=
  bitsOf 32 (fun e => engineUp s (chN n) (tileN (e / 2)) (e % 2 == 1)) + bitsOf 32 (engFailed (chn s n)) * 2 ^ 32
/-- ARB_ST (Table 8-18). -/
def arbSt (s : State) (n : Nat) : Nat :=
  let k := chn s n
  bitAt (nearestFirst s (chN n)) 0 + bitAt k.startup 1 + bitAt (testCause s (chN n)) 2 + bitAt (recovering k) 3 +
    k.starveE.toNat * 2 ^ 16 + k.starveT.toNat * 2 ^ 32

-- ## Line cache (9) and its bank pages (21)

/-- The tag entries of the frames of a tile that hold something: one per way of every set whose tag row is valid. -/
def tileTags (k : Channel) (t : Nat) : List TagE :=
  (k.rows.filter fun e => e.1 / 8192 == 3 * 16 + t).flatMap fun e =>
    let row := e.1 % 8192
    (List.range 8).map fun j => tagAt k t (row / 2) (row % 2 * 8 + j)
/-- VALID frames and DIRTY frames of a tile; none where the bank is gated (R465). -/
def tileFrames (k : Channel) (t : Nat) : Nat × Nat :=
  let x := k.tiles[tileN t]
  if x.gated then (0, 0)
  else
    let l := (tileTags k t).filter (·.valid)
    (l.length, (l.filter (·.dirty)).length)
/-- A way drain runs in some bank. -/
def anyWayDrain (k : Channel) : Bool := k.jobs.any fun j => match j.kind with
  | .wayDrain _ _ => true
  | _ => false
/-- LC_ST (Table 9-8). -/
def lcSt (k : Channel) : Nat :=
  let f := (List.range 16).map (tileFrames k)
  (match k.lc with | .on => 0 | .draining => 1 | .off => 2) + bitAt (maintBusy k) 2 + bitAt (anyWayDrain k) 3 +
    bitAt k.invDone 4 + bitAt k.lcHeld.isSome 5 + (f.foldl (fun n x => n + x.2) 0) * 2 ^ 8 +
    (f.foldl (fun n x => n + x.1) 0) * 2 ^ 25 + bitsOf 16 (fun t => k.tiles[tileN t].miss.isSome) * 2 ^ 42
/-- LC_WAYFAIL_j (Table 9-9). -/
def lcWayFail (k : Channel) (j : Nat) : Nat :=
  (List.range 4).foldl (fun n i => n + k.tiles[tileN (4 * j + i)].wayFail.toNat * 2 ^ (16 * i)) 0
/-- LCB_ST of a tile (Table 21-6). -/
def lcbSt (s : State) (n t : Nat) : Nat :=
  let f := tileFrames (chn s n) t
  f.1 + f.2 * 2 ^ 16 + bitAt (chn s n).tiles[tileN t].gated 32 + bitsOf 16 (wayEnabled s (chN n) t) * 2 ^ 48
/-- LCB_MISS of a tile (Table 21-6). -/
def lcbMiss (x : Tile) : Nat :=
  match x.miss with
  | none => 0
  | some m => if x.gated then 0 else 1 + bitAt m.prefetch 1 + m.way * 2 ^ 2 + m.laddr.toNat * 2 ^ 6
/-- LCB_FAIL of a tile (Table 21-6). -/
def lcbFail (x : Tile) : Nat := (List.range 16).foldl (fun n w => n + Tab.getD x.fails w 0 % 16 * 2 ^ (4 * w)) 0

-- ## Rings (10), target gate (11), integrity (12), recovery (13)

/-- RING_ST (Table 10-8). -/
def ringSt (k : Channel) : Nat :=
  bitsOf 8 (fun r => (k.ring r).empty) + k.broken.toNat * 2 ^ 8 +
    bitsOf 16 (fun t => !turnFree k t) * 2 ^ 16 +
    bitsOf 8 (fun r => (k.ring r).pend.isSome) * 2 ^ 32
/-- TG_ST (Table 11-8). -/
def tgSt (k : Channel) : Nat :=
  bitAt k.tgActive 0 + k.epoch.toNat * 2 ^ 8 + bitAt (drainPend k) 16 + bitAt (swapShown k) 17 +
    min (oldInflight k) 0xFFFF * 2 ^ 24
/-- Gauge g of a channel is full (R321). -/
def gaugeFull (s : State) (n g : Nat) : Bool := decide (gaugeCap s (chN n) g ≤ (chn s n).gauges[Fin.ofNat 7 g])
/-- IN_RETIRE_ST (Table 12-11). -/
def inRetireSt (k : Channel) : Nat := bitAt (retireBusy k) 0 + k.setRet.length * 2 ^ 8 + k.pgRet.length * 2 ^ 15
/-- IN_PGRET_j (Table 12-12). -/
def inPgret (k : Channel) (j : Nat) : Nat :=
  match k.pgRet[j]? with
  | some p => p.toNat + 2 ^ 40
  | none => 0
/-- IN_SETRET_j (Table 12-12). -/
def inSetret (k : Channel) (j : Nat) : Nat :=
  match k.setRet[j]? with
  | some (t, set, way, kind) => t + set * 2 ^ 4 + way * 2 ^ 15 + bitAt kind 19 + 2 ^ 20
  | none => 0
/-- RC_ST (Table 13-6). -/
def rcSt (s : State) (n : Nat) : Nat :=
  let k := chn s n
  bitAt (recovering k) 0 + bitAt k.simplex 1 + bitAt (fenceLine s n) 2 + k.cause.code * 2 ^ 3 +
    bitAt (!k.walks.isEmpty) 7 + k.xret.toNat * 2 ^ 8 + k.yret.toNat * 2 ^ 12 +
    bitAt (k.tiles.toList.any fun t => !t.biRows.isEmpty) 16 + bitAt (k.simplex && k.stewardOff) 17

-- ## Queues (15), instances (16), counters (18)

/-- The first slots and depths of the enabled sub-buffers of a channel (R378). -/
def enabledSubs (s : State) (n : Nat) : List (Nat × Nat) :=
  ((List.range 256).flatMap fun q => (List.range 4).map fun p =>
    let x := share s (chN n) q p
    (x.2, x.1)).filter fun x => x.2 != 0
/-- Two neighbours of a list in order of first slots share a slot. -/
def overlapIn : List (Nat × Nat) → Bool
  | x :: y :: r => decide (y.1 < x.1 + x.2) || overlapIn (y :: r)
  | _ => false
/-- Q_POOL_ST.OVERLAP (R386). -/
def qOverlap (s : State) (n : Nat) : Bool := overlapIn ((enabledSubs s n).mergeSort fun x y => x.1 ≤ y.1)
/-- Q_POOL_ST (Table 15-5). -/
def qPoolSt (s : State) (n : Nat) : Nat :=
  min 16384 ((enabledSubs s n).foldl (fun m x => m + x.2) 0) + bitAt (qOverlap s n) 15
/-- Q_COUNT of queue q (Table 15-4). -/
def qCount (k : Channel) (q : Nat) : Nat :=
  (List.range 4).foldl (fun n p => n + ((queueOf k q).at p).count * 2 ^ (13 * p)) 0 + bitAt (queueOf k q).moving 52
/-- MIN_OVER of a channel (R402). -/
def minOver (s : State) (n : Nat) : Bool := decide (minLimit s [] n < minSum s [] n (counted s n))
/-- IT_ST (Table 16-6). -/
def itSt (s : State) (n : Nat) : Nat :=
  fitted 12 (minSum s [] n (counted s n)) + minLimit s [] n * 2 ^ 12 + bitAt (minOver s n) 24
/-- IT_BUSY_j (Table 16-6, R399). -/
def itBusy (k : Channel) (j : Nat) : Nat :=
  bitsOf 64 fun i => decide (64 * j + i ≤ 240) && workIn k (BitVec.ofNat 8 (64 * j + i))
/-- CNT_ST (Table 18-3). -/
def cntSt (s : State) (n : Nat) : Nat := bitAt (gFrozen s (chN n)) 0 + bitAt (lFrozen s (chN n)) 1

-- ## The status bits of the channel pages

/-- PG_STATUS of a page of channel n (R463). -/
def chanStatus (s : State) (n p : Nat) : Nat :=
  let k := chn s n
  match p with
  | 0x00 => chStatus s n
  | 0x02 => bitAt k.decision 0
  | 0x04 => bitAt ((List.range 241).any (sfOver s n)) 0 + bitAt (evictFull s n) 1
  | 0x05 => bitAt (genEmpty s n != 0) 0
  | 0x07 => bitAt (k.starveE != 0 || k.starveT != 0) 0 + bitAt ((List.range 32).any (engFailed k)) 1 +
      bitAt (nearestFirst s (chN n)) 2
  | 0x08 => bitAt (k.lc == .draining) 0 + bitAt (maintBusy k) 1 + bitAt (k.tiles.toList.any fun t => t.wayFail != 0) 2
  | 0x0A => bitAt (k.broken != 0) 0
  | 0x0B => bitAt (drainPend k) 0 + bitAt (swapShown k) 1
  | 0x0C => bitsOf 7 (gaugeFull s n) + bitAt (cfC s n 0xC 0x88 0 1 == 1) 7 + bitAt (retireBusy k) 8
  | 0x0D => bitAt k.simplex 0 + bitAt (k.cause != .none) 1 + bitAt (k.xret != 0 || k.yret != 0) 2 +
      bitAt (!k.walks.isEmpty) 3
  | 0x0E => bitAt (k.queues.any fun q => q.2.moving) 0 +
      bitAt ((List.range 16).any fun q => bits (ctWord s (queueAddr (chN n) q + 0x38)) 48 16 != 0) 1 +
      bitAt (qOverlap s n) 2
  | 0x0F => bitsOf 16 fun j => (cntVal s (chN n) j).getLsbD 48
  | 0x10 => bitAt (minOver s n) 0 + bitAt ((List.range 241).any (trAtMax s n)) 1 +
      bitAt ((List.range 241).any fun i => instState k (BitVec.ofNat 8 i) == .quiescing && workIn k (BitVec.ofNat 8 i)) 2
  | _ => 0

/-- The status fields of the registers of channel pages from offset 0x040. -/
def chanSt (s : State) (n p o : Nat) : Nat :=
  let k := chn s n
  match p with
  | 0x00 => if o = 0x40 then chInfo s n else if o = 0x48 then chStatus s n else 0
  | 0x01 => if o = 0x40 then igSt k else if o = 0x48 then k.age.toNat else 0
  | 0x02 => if o = 0x48 then csPace s n else if inArray o 0x50 8 4 then csTilePace k ((o - 0x50) / 8) else 0
  | 0x04 => if o = 0x48 then sfOcc k else if inArray o 0x78 8 241 then sfIq s n ((o - 0x78) / 8) else 0
  | 0x05 => if o = 0x48 then trPoolSt s n else if o = 0x108 then trAnchorSt s n else 0
  | 0x06 => if inArray o 0x40 8 241 then trIq s n ((o - 0x40) / 8) else 0
  | 0x07 => if o = 0x48 then enSt s n else if o = 0x60 then k.levels.toNat else if o = 0x70 then arbSt s n else 0
  | 0x08 => if o = 0x58 then lcSt k else if inArray o 0x80 8 4 then lcWayFail k ((o - 0x80) / 8) else 0
  | 0x09 => if o = 0x40 then mpSt k else if o = 0x48 then mpDd s n else 0
  | 0x0A => if o = 0x90 then ringSt k else 0
  | 0x0B => if o = 0x68 then tgSt k else 0
  | 0x0C =>
    if inArray o 0x50 8 7 then min k.gauges[Fin.ofNat 7 ((o - 0x50) / 8)] 0xFFFF
    else if o = 0x98 then inRetireSt k
    else if inArray o 0x100 8 32 then inPgret k ((o - 0x100) / 8)
    else if inArray o 0x200 8 64 then inSetret k ((o - 0x200) / 8) else 0
  | 0x0D => if o = 0x50 then rcSt s n else 0
  | 0x0E => if o = 0x40 then qPoolSt s n else 0
  | 0x0F => if o = 0x140 then cntSt s n else 0
  | 0x10 => if o = 0x40 then itSt s n else if inArray o 0x48 8 4 then itBusy k ((o - 0x48) / 8) else 0
  | _ =>
    if 0x20 ≤ p && p < 0x30 && decide (0x40 ≤ o ∧ o < 0x540) then
      let q := 16 * (p - 0x20) + (o - 0x40) / 0x50
      match (o - 0x40) % 0x50 with
      | 0x18 => (queueOf k q).hold1.toNat
      | 0x20 => (queueOf k q).hold2.toNat
      | 0x28 => (queueOf k q).hold3.toNat
      | 0x30 => qCount k q
      | _ => 0
    else if 0x30 ≤ p && p < 0x40 then
      if o = 0x40 then sfbSt k (p - 0x30)
      else if inArray o 0x80 8 32 then sfbDlist k.tiles[tileN (p - 0x30)] ((o - 0x80) / 8) else 0
    else if 0x40 ≤ p && p < 0x50 then
      let x := k.tiles[tileN (p - 0x40)]
      match o with
      | 0x40 => lcbSt s n (p - 0x40)
      | 0x48 => x.lfsr.toNat
      | 0x50 => lcbMiss x
      | 0x58 => lcbFail x
      | _ => 0
    else 0

/-- The status fields of the raw access page (Table 21-8). -/
def rawSt (k : Channel) (o : Nat) : Nat :=
  if inArray o 0x50 8 7 then (k.dgHold[Fin.ofNat 8 ((o - 0x50) / 8 + 1)]).toNat
  else if o = 0x88 then k.dgRow.toNat else if o = 0x90 then k.dgCol.toNat else if o = 0x98 then k.dgRes.toNat else 0
/-- The status fields of the pool access page (Table 21-9). -/
def poolSt (k : Channel) (o : Nat) : Nat :=
  if o = 0x98 then bitAt k.paBusy.isSome 0 + bitAt k.paPoison 1 + k.paSrc.toNat * 2 ^ 2 + k.paErr.toNat * 2 ^ 4
  else if inArray o 0xA0 8 8 then (lineWord k.paData ((o - 0xA0) / 8)).toNat else 0

-- ## The block-level pages

/-- AD_LOST as it reads: of monitored adapters (Table 2-14). -/
def adLostSeen (s : State) (i : Nat) : Bool := s.adLost.getLsbD i && adEnabled s i
/-- MC_LOST as it reads (Table 2-15). -/
def mcLostSeen (s : State) (c : Nat) : Bool :=
  s.mcLost.getLsbD c && (cfB s 0 0x78 0 16).testBit c && ((chn s c).pwr == .on || (chn s c).pwr == .draining)
/-- The journal gauge is full (Table 12-13). -/
def jrnFull (s : State) : Bool := decide (jrnCap s ≤ s.jrnGauge)
/-- Agents of a STATE. -/
def agentsIn (s : State) (l : Life) : Nat := (allAgents.filter fun a => agentLifeB s a == l).length
/-- An agent that is LIVE, may cache, and is not monitored (R455). -/
def unwatched (s : State) : Bool :=
  allAgents.any fun a => (agentKindB s a == 1 || agentKindB s a == 2) && agentLifeB s a == .live &&
    !adEnabled s (agentAdapter s a)
/-- IMG_ST (Table 8-22). -/
def imgSt (s : State) : Nat :=
  bitAt (digestSet s) 0 + bitAt s.load.isSome 1 + s.imgResult.toNat * 2 ^ 8 + s.imgValid.toNat * 2 ^ 16
/-- PWR_ST (Table 17-7). -/
def pwrSt (s : State) : Nat :=
  (List.range 16).foldl (fun n c => n + (chn s c).pwr.code * 2 ^ (3 * c)) 0 + bitsOf 16 (fun c => (chn s c).limit) * 2 ^ 48
/-- PWR_BANK_j (Table 17-7). -/
def pwrBank (s : State) (j : Nat) : Nat :=
  (List.range 4).foldl (fun n i => n + bitsOf 16 (fun t => (chn s (4 * j + i)).tiles[tileN t].gated) * 2 ^ (16 * i)) 0
/-- The STATE code of an instance (Table 16-1). -/
def IState.code : IState → Nat | .free => 0 | .active => 1 | .quiescing => 2 | .quiesced => 3 | .frozen => 4
/-- INST_STATE_j (Table 16-4). -/
def instSt (s : State) (j : Nat) : Nat :=
  (List.range 16).foldl (fun n i =>
    let v := BitVec.ofNat 8 (16 * j + i)
    if 240 < 16 * j + i then n
    else n + ((instStateB s v).code + bitAt (s.flushed.contains v) 3) * 2 ^ (4 * i)) 0
/-- The lowest MIN_NOW and its channel (Table 20-7). -/
def baroLowest (s : State) : Nat :=
  let m := (List.range 16).foldl (fun (b : Option (Nat × Nat)) c =>
    if !up? s c then b
    else match b with
      | some x => if (chn s c).minNow.toNat < x.1 then some ((chn s c).minNow.toNat, c) else b
      | none => some ((chn s c).minNow.toNat, c)) none
  match m with
  | some x => x.1 + x.2 * 2 ^ 12
  | none => 0
/-- The stretch decision of a channel in service. -/
def deciding (s : State) (c : Nat) : Bool := up? s c && (chn s c).decision
/-- BARO_CH_c (R456). -/
def baroCh (s : State) (c : Nat) : Nat :=
  let k := chn s c
  if !up? s c then 0
  else k.minNow.toNat + k.thresh.toNat * 2 ^ 12 + k.mhz.toNat * 2 ^ 24 + bitAt k.decision 36 + bitAt k.pclkValid 37
/-- HOLD_n, its base, size and owner word (Table 14-12). -/
def holdWord (s : State) (n : Nat) : Nat :=
  match Tab.get? s.holds n with
  | some h => h.base.toNat + h.size * 2 ^ 46 + h.owner.toNat * 2 ^ 52 + bitAt h.granted 56
  | none => 0
/-- REMAIN of a hold (Table 14-12). -/
def holdRemain (s : State) (n : Nat) : Nat :=
  match Tab.get? s.holds n with
  | some h => if h.granted then h.expiry - s.tick else 0
  | none => 0
/-- DBG_HOLD_c (Table 20-8). -/
def dbgHold (s : State) (c : Nat) : Nat :=
  match Tab.get? s.raw c with
  | some h => h.tile + bitAt (h.bank == .lc) 4 + 2 ^ 5 + fitted 24 (h.expiry - s.tick) * 2 ^ 8
  | none => 0

/-- PG_STATUS of a block-level page (R391, R394, R413, R450, R455, R457, chapters 14 and 17). -/
def blkStatus (s : State) (p : Nat) : Nat :=
  match p with
  | 0x0 => bitAt ((List.range 128).any (adLostSeen s)) 0 + bitAt ((List.range 16).any (mcLostSeen s)) 1 +
      bitAt (jrnFull s) 2 + bitAt ((List.range 16).any fun c => up? s c && (chn s c).cause != .none) 3
  | 0x1 => bitAt (s.strobe.any (·.running)) 0
  | 0x3 => bitAt (bits (ctWord s 0x30C8) 48 16 != 0) 0
  | 0x4 => bitAt (s.holds.any fun h => !h.2.granted) 0
  | 0x5 => bitAt (agentsIn s .reclaiming != 0) 0 + bitAt (agentsIn s .dead != 0) 1 + bitAt (!s.agentOps.isEmpty) 2 +
      bitAt (unwatched s) 3
  | 0x6 =>
    let any (st : IState) : Bool := (List.range 241).any fun i => instStateB s (BitVec.ofNat 8 i) == st
    bitAt (any .quiescing) 0 + bitAt (any .frozen) 1 + bitAt ((List.range 16).any fun c => up? s c && minOver s c) 2 +
      bitAt (s.instOps.any fun o => (openCmd s o.seq).any fun e => e.state == .pending) 3
  | 0x8 => bitAt ((List.range 16).any (deciding s)) 0 + bitAt (s.alarm != 0) 1
  | 0x9 => bitAt (!s.pwrPend.isEmpty || allCh.any (upWaits s)) 0 + bitAt ((List.range 16).any fun c => (chn s c).limit) 1 +
      bitAt ((List.range 16).any fun c => (chn s c).pwr == .gated || (chn s c).pwr == .off) 2 +
      bitAt ((List.range 16).any fun c => (chn s c).tiles.toList.any (·.gated)) 3
  | 0xA => bitAt s.load.isSome 0 + bitAt ((List.range 16).any fun c => up? s c && !s.imgValid.getLsbD c) 1
  | 0xB => bitAt (!s.raw.isEmpty) 0
  | _ => 0

/-- The sources of a run of PG_STATUS bits of a page: active where the bit and its enable are both set (R390). -/
def sourcesOf (s : State) (base status first n : Nat) : Nat :=
  (status &&& bits (appWord s (base + 0x28)) 0 64) % 2 ^ n * 2 ^ first
/-- The pages of the channel sources, with their first source and number of bits (Table 15-3). -/
def chanSources : List (Nat × Nat × Nat) :=
  [(0x00, 0, 8), (0x02, 8, 1), (0x04, 9, 2), (0x05, 11, 1), (0x07, 12, 3), (0x08, 15, 3), (0x0A, 18, 1), (0x0B, 19, 2),
   (0x0C, 21, 9), (0x0D, 30, 4), (0x0E, 34, 3), (0x0F, 37, 16), (0x10, 53, 8)]
/-- IRQ_ACTIVE of a channel (Table 15-5). -/
def irqActive (s : State) (n : Nat) : Nat :=
  chanSources.foldl (fun m x => m + sourcesOf s (addrC n x.1 0) (chanStatus s n x.1) x.2.1 x.2.2) 0
/-- The block-level sources (R391). -/
def blkSources : List (Nat × Nat × Nat) :=
  [(0x0, 0, 4), (0x1, 4, 1), (0x3, 5, 1), (0x4, 6, 1), (0xA, 7, 2), (0x5, 9, 4), (0x6, 13, 4), (0x9, 17, 4), (0x8, 21, 2),
   (0xB, 23, 1)]
/-- BLK_IRQ_ACTIVE.BLOCK. -/
def blkActive (s : State) : Nat :=
  blkSources.foldl (fun m x => m + sourcesOf s (x.1 * 0x1000) (blkStatus s x.1) x.2.1 x.2.2) 0
/-- BLK_IRQ_ACTIVE (Table 15-6): a clamped channel's sources are not reported (R392). -/
def blkIrqActive (s : State) : Nat := blkActive s + bitsOf 16 (fun c => up? s c && irqActive s c != 0) * 2 ^ 32
/-- HA_IRQ[n] as 16 levels: line LINE_j of every active source j; low while the channel is clamped (R392). -/
def haIrq (s : State) (n : Nat) : Nat :=
  if !up? s n then 0
  else
    let act := irqActive s n
    bitsOf 16 fun line => (List.range 64).any fun j => act.testBit j && cfC s n 0xE (0x48 + 8 * (j / 16)) (4 * (j % 16)) 4 == line
/-- HA_IRQ_BLK (R392). -/
def haIrqBlk (s : State) : Bool := running s && blkActive s != 0

/-- UPD_ST (Table 14-9): the masks of the running strobe, or where none runs of the last one (R360, R361). -/
def updSt (s : State) : Nat :=
  let m := match s.strobe with | some x => (x.applied, x.skipped) | none => (s.updApplied, s.updSkipped)
  m.1.toNat + m.2.toNat * 2 ^ 16 + bitAt s.strobe.isSome 32
/-- The status fields of the registers of block-level pages from offset 0x040. -/
def blkSt (s : State) (p o : Nat) : Nat :=
  match p with
  | 0x0 =>
    if o = 0x40 then 0x1640 + 2 ^ 16 + 2 ^ 20 + 0x10 * 2 ^ 24 + 0x10 * 2 ^ 32 + 2 ^ 40 + 0x4B4D * 2 ^ 48
    else if o = 0x68 then bitsOf 64 (adLostSeen s)
    else if o = 0x70 then bitsOf 64 fun i => adLostSeen s (64 + i)
    else if o = 0x78 then bitsOf 16 (mcLostSeen s) * 2 ^ 16
    else if o = 0x80 then bitAt (jrnFull s) 1 + min s.jrnGauge 0xFFF * 2 ^ 16 else 0
  | 0x1 => if o = 0x48 then updSt s else 0
  | 0x2 => if o = 0x48 then s.snapTime % 2 ^ 48 else 0
  | 0x3 => if o = 0xC0 then s.jrnNext % 2 ^ 48 else if o = 0xD0 then s.tick % 2 ^ 48 else 0
  | 0x4 =>
    if o = 0x48 then bitsOf 64 fun n => (Tab.get? s.holds n).isSome
    else if o = 0x50 then bitsOf 32 fun q => blkPageMapped q && pageLocked s (q * 0x1000)
    else if inArray o 0x100 16 64 then holdWord s ((o - 0x100) / 16)
    else if inArray o 0x108 16 64 then holdRemain s ((o - 0x108) / 16) else 0
  | 0x5 =>
    if o = 0x48 then agentsIn s .reclaiming + agentsIn s .dead * 2 ^ 9 + agOpen s * 2 ^ 18
    else if inArray o 0x100 8 128 then
      let st (h : Nat) : Nat := match agentLifeB s (BitVec.ofNat 8 (2 * ((o - 0x100) / 8) + h)) with
        | .live => 0 | .reclaiming => 1 | .dead => 2
      st 0 * 2 ^ 12 + st 1 * 2 ^ 44
    else 0
  | 0x6 =>
    if inArray o 0x60 8 16 then instSt s ((o - 0x60) / 8)
    else if inArray o 0x100 8 19 then (s.saved.getD ((o - 0x100) / 8) 0).toNat else 0
  | 0x7 => if o = 0x40 then blkIrqActive s else 0
  | 0x8 =>
    if o = 0x48 then s.alarm.toNat + bitsOf 16 (deciding s) * 2 ^ 16 + baroLowest s * 2 ^ 32
    else if inArray o 0x80 8 16 then baroCh s ((o - 0x80) / 8) else 0
  | 0x9 => if o = 0x48 then pwrSt s else if inArray o 0x58 8 4 then pwrBank s ((o - 0x58) / 8) else 0
  | 0xA => if o = 0x80 then imgSt s else if o = 0x88 then s.imgBuild.toNat else 0
  | 0xB =>
    if o = 0x50 then bitsOf 16 fun c => (Tab.get? s.raw c).isSome
    else if inArray o 0x80 8 16 then dbgHold s ((o - 0x80) / 8) else 0
  | _ => 0

-- ## Reading a register (R352)

/-- PG_STATUS of a page. -/
def pageStatus (s : State) : Page → Nat
  | .blk p => blkStatus s p
  | .chan c p => chanStatus s c p
  | .raw _ => 0
  | .pool _ => 0
/-- The status fields of the register at an offset of a page. -/
def statusAt (s : State) (pg : Page) (o : Nat) : Nat :=
  match o with
  | 0x00 => pg.type + pg.index * 2 ^ 16 + 2 ^ 32
  | 0x08 => pg.cap
  | 0x20 => pageStatus s pg
  | 0x38 => Tab.getD s.snap pg.base 0
  | _ =>
    if o < 0x40 then 0
    else match pg with
      | .blk p => blkSt s p o
      | .chan c p =>
        if p = 0xE ∧ o = 0x68 then irqActive s c else chanSt s c p o
      | .raw c => rawSt (chn s c) o
      | .pool c => poolSt (chn s c) o
/-- The address whose CT fields a context reads: its own cursor for every JRN_CUR_k (R370). -/
def ctAddr (ctx : Ctx) (a : Nat) : Nat := if 0x3040 ≤ a ∧ a < 0x30C0 then 0x3040 + 8 * ctx.toNat else a
/-- What a register reads as, by its fields' classes (R352): in the first view CF and LK fields as applied, CT, WO and ST fields,
and the sequence number of a CM register's last accepted command (R364), IMG_DATA that of the running or last load (Table
8-21); in the second view staged and held copies. -/
def regRead (s : State) (ctx : Ctx) (a : Nat) : Word :=
  match pageOf a with
  | none => 0
  | some pg =>
    let o := viewOff a
    let f := pg.base + o
    let r := regAt pg o
    let apart (w : Word) (m : Nat) : Word := w &&& BitVec.ofNat 64 m
    if secondView a then apart (stgWord s f) (r.cf ||| r.lk) ||| apart (Tab.word s.held (ctAddr ctx f)) r.ct
    else if f = 0xA078 then BitVec.ofNat 64 (s.imgSeq % 2 ^ 48)
    else if r.cm != 0 then BitVec.ofNat 64 (Tab.getD s.cmSeq f 0 % 2 ^ 48)
    else
      apart (appWord s f) (r.cf ||| r.lk) ||| apart (ctWord s (ctAddr ctx f)) r.ct ||| apart (Tab.word s.wo f) r.wo |||
        BitVec.ofNat 64 (statusAt s pg o)

end Sys2Proof.Machine
end

