-- ==== Sys2Proof/Machine/Registers.lean ====
section
/-! DEFINITION. A host-port access to any register: REGISTER_WRITE by the class of the fields it reaches (R352 to R356, R364,
R446), and a read, of which DENIED_READ is the one the access rules forbid (R351). -/

namespace Sys2Proof.Machine

/-- The address in the first view (R352). -/
def firstView (a : Nat) : Nat := baseOf a + viewOff a
/-- A write reaches CF, LK and CT fields (R353): CF and unfrozen LK fields take it staged, CT fields are preset; frozen LK fields
keep their values, and the ignored write is counted and recorded (R356). -/
def stageAct (ctx : Ctx) (a : Nat) (v : Word) (s : State) : State :=
  let r := regOf a
  let f := firstView a
  let frozen := r.lk != 0 && lkFrozen s f
  let mask : Word := BitVec.ofNat 64 (if frozen then r.cf else r.cf ||| r.lk)
  let s := if mask = 0 then s else { s with stg := Tab.put s.stg f ((stgWord s f &&& ~~~mask) ||| (v &&& mask)) }
  let s := if r.ct = 0 then s else { s with ct := Tab.put s.ct f (v &&& BitVec.ofNat 64 r.ct) }
  if frozen then lockedWrite ctx a v s else s
/-- A write reaches the CM or WO register at an offset of a block-level page. -/
def blkCmd (ctx : Ctx) (p o : Nat) (v : Word) (s : State) : State :=
  match p, o with
  | 0x1, 0x40 => updAct ctx v s
  | 0x2, 0x40 => snapAct ctx v s
  | 0x4, 0x40 => holdAct ctx v s
  | 0x5, 0x40 => agAct ctx v s
  | 0x6, 0x40 => instAct ctx v s
  | 0x9, 0x40 => pwrAct ctx v s
  | 0xA, 0x70 => imgCmdAct ctx v s
  | 0xA, 0x78 => imgDataAct v s
  | 0xA, _ => digestAct ctx (0xA000 + o) v s
  | _, _ => dbgRawAct ctx v s
/-- A write reaches the CM or WO register at an offset of a page of channel c. -/
def chanCmd (ctx : Ctx) (c : Ch) (p o : Nat) (v : Word) (s : State) : State :=
  match p, o with
  | 0x00, _ => chRstAct ctx c v s
  | 0x07, _ => arbAct ctx c v s
  | 0x08, 0x48 => lcCmdAct ctx c v s
  | 0x08, _ => lcMaintAct ctx c v s
  | 0x0B, 0x60 => tgSwapAct ctx c v s
  | 0x0B, _ => tgLockAct ctx c v s
  | 0x0C, _ => retireAct ctx c v s
  | 0x0D, _ => fenceAct ctx c v s
  | _, _ => flushAct ctx c (16 * (p - 0x20) + (o - 0x40) / 0x50) v s
/-- A write reaches a CM or WO register. -/
def cmdAct (ctx : Ctx) (a : Nat) (v : Word) (s : State) : State :=
  match pageOf a with
  | none => s
  | some (.blk p) => blkCmd ctx p (viewOff a) v s
  | some (.chan c p) => chanCmd ctx (chN c) p (viewOff a) v s
  | some (.raw c) => dgWrite ctx (chN c) v s
  | some (.pool c) => paAct ctx (chN c) v s
/-- The register at an address acts on a write. PG_CTL and the journal cursors have rules of their own; a second view has no
copy of CM and WO fields and ignores a write of them (R352); a write that reaches no field is answered OK (R446). -/
def writeAct (ctx : Ctx) (a : Nat) (v : Word) (s : State) : State :=
  let r := regOf a
  if viewOff a = 0x10 && !secondView a then pgCtlAct ctx (baseOf a) v s
  else if decide (0x3040 ≤ firstView a ∧ firstView a < 0x30C0) then respond 0 (setCur ctx v.toNat s)
  else if r.cm != 0 || r.wo != 0 && viewOff a != 0x10 then
    if secondView a then respond 0 s else cmdAct ctx a v s
  else respond 0 (stageAct ctx a v s)
/-- REGISTER_WRITE (R40, R41, R352 to R356). -/
def execRegisterWrite (ctx : Ctx) (addr : HpAddr) (value : Word) (s : State) : Host.Outcome State Fault Refusal :=
  .next (hostCmd ctx addr.toNat (writeAct ctx addr.toNat value) s)

-- ## Reads

/-- The registers a read of which acts: DG_RD (R471), Q_POP (R380) and the journal window (R370); any other read returns the
register. -/
def readAct (ctx : Ctx) (a : Nat) (s : State) : State :=
  let o := viewOff a
  if secondView a then respond (regRead s ctx a) s
  else
    match pageOf a with
    | some (.raw c) => if o = 0x48 then dgRead ctx (chN c) s else respond (regRead s ctx a) s
    | some (.blk 3) =>
      if 0x100 ≤ o ∧ o < 0x200 then windowRead ctx ((o - 0x100) / 32) ((o - 0x100) % 32 / 8) s else respond (regRead s ctx a) s
    | some (.chan c p) =>
      if decide (0x20 ≤ p ∧ p < 0x30) && inArray o 0x50 0x50 16 then pop (chN c) (16 * (p - 0x20) + (o - 0x50) / 0x50) s
      else respond (regRead s ctx a) s
    | _ => respond (regRead s ctx a) s
/-- A host-port read: the host guard, then the register. -/
def hostRead (ctx : Ctx) (a : Nat) (s : State) : State := hostAct ctx a (readAct ctx a) s
/-- DENIED_READ (R351, R41): a read that the access rules forbid is answered DENIED, or as R41 says; one that they permit is an
ordinary read. -/
def execDeniedRead (ctx : Ctx) (addr : HpAddr) (s : State) : Host.Outcome State Fault Refusal :=
  .next (hostRead ctx addr.toNat s)

end Sys2Proof.Machine
end

