-- ==== Sys2Proof/Machine/Dispatch.lean ====
section
/-! DEFINITION. The meaning of every command: one arm per row of the opcode table, each a direct call. -/

namespace Sys2Proof.Machine

/-- A command's effect on everything but the queue. -/
def exec (i : Instr) (s : State) : Host.Outcome State Fault Refusal :=
  match i with
  | .rdShd c r => Sys2Proof.Machine.execRdShd c r s
  | .rdOwn c r => Sys2Proof.Machine.execRdOwn c r s
  | .rdAny c r => Sys2Proof.Machine.execRdAny c r s
  | .rdCur c r => Sys2Proof.Machine.execRdCur c r s
  | .rdSpec c r => Sys2Proof.Machine.execRdSpec c r s
  | .upgrade c r => Sys2Proof.Machine.execUpgrade c r s
  | .invAll c r => Sys2Proof.Machine.execInvAll c r s
  | .wrFull c r => Sys2Proof.Machine.execWrFull c r s
  | .wrPtl c r => Sys2Proof.Machine.execWrPtl c r s
  | .atomic c r => Sys2Proof.Machine.execAtomic c r s
  | .evict c r => Sys2Proof.Machine.execEvict c r s
  | .biConflict c r => Sys2Proof.Machine.execBiConflict c r s
  | .rspI c r => Sys2Proof.Machine.execRspI c r s
  | .rspS c r => Sys2Proof.Machine.execRspS c r s
  | .rspE c r => Sys2Proof.Machine.execRspE c r s
  | .rspID c r => Sys2Proof.Machine.execRspID c r s
  | .rspSD c r => Sys2Proof.Machine.execRspSD c r s
  | .wdata c d => Sys2Proof.Machine.execWdata c d s
  | .sdata c d => Sys2Proof.Machine.execSdata c d s
  | .memFill c d => Sys2Proof.Machine.execMemFill c d s
  | .memRmw c d => Sys2Proof.Machine.execMemRmw c d s
  | .memAtomRes c d => Sys2Proof.Machine.execMemAtomRes c d s
  | .egressCrossing c p gap => Sys2Proof.Machine.execEgressCrossing c p gap s
  | .egressStall c p => Sys2Proof.Machine.execEgressStall c p s
  | .engineDispatch c t => Sys2Proof.Machine.execEngineDispatch c t s
  | .bankPortGrant c t b => Sys2Proof.Machine.execBankPortGrant c t b s
  | .move c t odd dst val => Sys2Proof.Machine.execMove c t odd dst val s
  | .dirRd c t odd => Sys2Proof.Machine.execDirRd c t odd s
  | .dirWr c t odd way => Sys2Proof.Machine.execDirWr c t odd way s
  | .lcAcc c t odd => Sys2Proof.Machine.execLcAcc c t odd s
  | .snoop c t odd => Sys2Proof.Machine.execSnoop c t odd s
  | .memreq c t odd => Sys2Proof.Machine.execMemreq c t odd s
  | .send c t odd => Sys2Proof.Machine.execSend c t odd s
  | .wait c t odd => Sys2Proof.Machine.execWait c t odd s
  | .branch c t odd taken => Sys2Proof.Machine.execBranch c t odd taken s
  | .tracker c t odd op => Sys2Proof.Machine.execTracker c t odd op s
  | .endFlow c t odd => Sys2Proof.Machine.execEndFlow c t odd s
  | .illegalMicroword c t odd => Sys2Proof.Machine.execIllegalMicroword c t odd s
  | .trackerEntryRelease c t n => Sys2Proof.Machine.execTrackerEntryRelease c t n s
  | .anchorLapse c agent => Sys2Proof.Machine.execAnchorLapse c agent s
  | .engineHoldCutoff c t odd => Sys2Proof.Machine.execEngineHoldCutoff c t odd s
  | .bankHoldCutoff c t b => Sys2Proof.Machine.execBankHoldCutoff c t b s
  | .starvationOnset c t engine cls => Sys2Proof.Machine.execStarvationOnset c t engine cls s
  | .wdataTimeout c agent tag laddr => Sys2Proof.Machine.execWdataTimeout c agent tag laddr s
  | .snoopTimeout c home agent laddr => Sys2Proof.Machine.execSnoopTimeout c home agent laddr s
  | .memTimeout c home => Sys2Proof.Machine.execMemTimeout c home s
  | .mrsReservationEnd c home => Sys2Proof.Machine.execMrsReservationEnd c home s
  | .flitHop c r bad => Sys2Proof.Machine.execFlitHop c r bad s
  | .resend c r stop => Sys2Proof.Machine.execResend c r stop s
  | .injectionClaim c r stop => Sys2Proof.Machine.execInjectionClaim c r stop s
  | .slotFrameStart c r => Sys2Proof.Machine.execSlotFrameStart c r s
  | .barometerTick gap readings => Sys2Proof.Machine.execBarometerTick gap readings s
  | .pclkWindowEnd c => Sys2Proof.Machine.execPclkWindowEnd c s
  | .aliveToggle c => Sys2Proof.Machine.execAliveToggle c s
  | .adAliveTransition k => Sys2Proof.Machine.execAdAliveTransition k s
  | .mcAliveTransition c => Sys2Proof.Machine.execMcAliveTransition c s
  | .adapterLost k => Sys2Proof.Machine.execAdapterLost k s
  | .mcLost c => Sys2Proof.Machine.execMcLost c s
  | .coldResetAssert => Sys2Proof.Machine.execColdResetAssert s
  | .coldResetRelease => Sys2Proof.Machine.execColdResetRelease s
  | .warmResetAssert => Sys2Proof.Machine.execWarmResetAssert s
  | .warmResetRelease => Sys2Proof.Machine.execWarmResetRelease s
  | .gaugeLeak c g => Sys2Proof.Machine.execGaugeLeak c g s
  | .wayCountDecay c t w => Sys2Proof.Machine.execWayCountDecay c t w s
  | .scrubStep who => Sys2Proof.Machine.execScrubStep who s
  | .engineWatchdog c t x => Sys2Proof.Machine.execEngineWatchdog c t x s
  | .engineFailover c t odd => Sys2Proof.Machine.execEngineFailover c t odd s
  | .shadowRebuild c t ctxArray x => Sys2Proof.Machine.execShadowRebuild c t ctxArray x s
  | .stewardRollback c run => Sys2Proof.Machine.execStewardRollback c run s
  | .recoveryWatchdog c => Sys2Proof.Machine.execRecoveryWatchdog c s
  | .ringRetirement c r => Sys2Proof.Machine.execRingRetirement c r s
  | .broadcastInvalidation c t ext row => Sys2Proof.Machine.execBroadcastInvalidation c t ext row s
  | .reclaimStep c t => Sys2Proof.Machine.execReclaimStep c t s
  | .maintStep c t job => Sys2Proof.Machine.execMaintStep c t job s
  | .quietPoint c => Sys2Proof.Machine.execQuietPoint c s
  | .snapshotEdge => Sys2Proof.Machine.execSnapshotEdge s
  | .gateNoticeWindowEnd c => Sys2Proof.Machine.execGateNoticeWindowEnd c s
  | .gateSwapDone c => Sys2Proof.Machine.execGateSwapDone c s
  | .holdLapse slot => Sys2Proof.Machine.execHoldLapse slot s
  | .holdGranted slot => Sys2Proof.Machine.execHoldGranted slot s
  | .rawHoldLapse c => Sys2Proof.Machine.execRawHoldLapse c s
  | .queueMoveEnd c q => Sys2Proof.Machine.execQueueMoveEnd c q s
  | .queueFlushBoundary c q => Sys2Proof.Machine.execQueueFlushBoundary c q s
  | .instanceQuiesced inst => Sys2Proof.Machine.execInstanceQuiesced inst s
  | .drainQuiesced c => Sys2Proof.Machine.execDrainQuiesced c s
  | .drainLimitPassed c => Sys2Proof.Machine.execDrainLimitPassed c s
  | .channelClamp c => Sys2Proof.Machine.execChannelClamp c s
  | .ddSettleElapsed c => Sys2Proof.Machine.execDdSettleElapsed c s
  | .channelPowerUp c => Sys2Proof.Machine.execChannelPowerUp c s
  | .channelResetDone c test => Sys2Proof.Machine.execChannelResetDone c test s
  | .poolAccessReissue c => Sys2Proof.Machine.execPoolAccessReissue c s
  | .registerWrite ctx addr value => Sys2Proof.Machine.execRegisterWrite ctx addr value s
  | .updCmd ctx groups => Sys2Proof.Machine.execUpdCmd ctx groups s
  | .snapCmd ctx channels block => Sys2Proof.Machine.execSnapCmd ctx channels block s
  | .pageLock ctx page value => Sys2Proof.Machine.execPageLock ctx page value s
  | .acquire ctx base sizeLog2 lease => Sys2Proof.Machine.execAcquire ctx base sizeLog2 lease s
  | .renew ctx slot lease => Sys2Proof.Machine.execRenew ctx slot lease s
  | .release ctx slot => Sys2Proof.Machine.execRelease ctx slot s
  | .breakHold ctx slot => Sys2Proof.Machine.execBreakHold ctx slot s
  | .imgCmd ctx channels => Sys2Proof.Machine.execImgCmd ctx channels s
  | .imgAbort ctx => Sys2Proof.Machine.execImgAbort ctx s
  | .imgData ctx beat => Sys2Proof.Machine.execImgData ctx beat s
  | .imgDigest ctx k value => Sys2Proof.Machine.execImgDigest ctx k value s
  | .arbPrio ctx c levels => Sys2Proof.Machine.execArbPrio ctx c levels s
  | .disable ctx c => Sys2Proof.Machine.execDisable ctx c s
  | .enable ctx c => Sys2Proof.Machine.execEnable ctx c s
  | .clean ctx c base sizeLog2 all => Sys2Proof.Machine.execClean ctx c base sizeLog2 all s
  | .invalidate ctx c base sizeLog2 all => Sys2Proof.Machine.execInvalidate ctx c base sizeLog2 all s
  | .cleanInvalidate ctx c base sizeLog2 all => Sys2Proof.Machine.execCleanInvalidate ctx c base sizeLog2 all s
  | .tgSwap ctx c bank groupSync => Sys2Proof.Machine.execTgSwap ctx c bank groupSync s
  | .tgLock ctx c bits => Sys2Proof.Machine.execTgLock ctx c bits s
  | .retireSlot ctx c t set way => Sys2Proof.Machine.execRetireSlot ctx c t set way s
  | .retireSet ctx c t set => Sys2Proof.Machine.execRetireSet ctx c t set s
  | .retirePage ctx c page => Sys2Proof.Machine.execRetirePage ctx c page s
  | .fence ctx c => Sys2Proof.Machine.execFence ctx c s
  | .queueFlush ctx c q prios => Sys2Proof.Machine.execQueueFlush ctx c q prios s
  | .qPop ctx c q => Sys2Proof.Machine.execQPop ctx c q s
  | .jrnWindowRead ctx slot word => Sys2Proof.Machine.execJrnWindowRead ctx slot word s
  | .jrnCur ctx k value => Sys2Proof.Machine.execJrnCur ctx k value s
  | .create ctx inst group sync => Sys2Proof.Machine.execCreate ctx inst group sync s
  | .quiesce ctx inst => Sys2Proof.Machine.execQuiesce ctx inst s
  | .resume ctx inst group sync => Sys2Proof.Machine.execResume ctx inst group sync s
  | .flush ctx inst sizeLog2 base => Sys2Proof.Machine.execFlush ctx inst sizeLog2 base s
  | .freeze ctx inst => Sys2Proof.Machine.execFreeze ctx inst s
  | .thaw ctx inst group sync => Sys2Proof.Machine.execThaw ctx inst group sync s
  | .save ctx inst => Sys2Proof.Machine.execSave ctx inst s
  | .restore ctx inst => Sys2Proof.Machine.execRestore ctx inst s
  | .instanceReset ctx inst => Sys2Proof.Machine.execInstanceReset ctx inst s
  | .remove ctx inst => Sys2Proof.Machine.execRemove ctx inst s
  | .declareDead ctx agent => Sys2Proof.Machine.execDeclareDead ctx agent s
  | .admitAgent ctx agent => Sys2Proof.Machine.execAdmitAgent ctx agent s
  | .drain ctx c => Sys2Proof.Machine.execDrain ctx c s
  | .up ctx c => Sys2Proof.Machine.execUp ctx c s
  | .gate ctx c => Sys2Proof.Machine.execGate ctx c s
  | .off ctx c => Sys2Proof.Machine.execOff ctx c s
  | .bankGate ctx c t => Sys2Proof.Machine.execBankGate ctx c t s
  | .bankUp ctx c t => Sys2Proof.Machine.execBankUp ctx c t s
  | .chRst ctx c => Sys2Proof.Machine.execChRst ctx c s
  | .enter ctx c t b => Sys2Proof.Machine.execEnter ctx c t b s
  | .exit ctx c t b => Sys2Proof.Machine.execExit ctx c t b s
  | .dgRd ctx c => Sys2Proof.Machine.execDgRd ctx c s
  | .dgWr ctx c => Sys2Proof.Machine.execDgWr ctx c s
  | .read ctx c => Sys2Proof.Machine.execRead ctx c s
  | .write ctx c => Sys2Proof.Machine.execWrite ctx c s
  | .irqInvalidOpcode c r opcode => Sys2Proof.Machine.execIrqInvalidOpcode c r opcode s
  | .inboundInvalidOpcode c p r opcode => Sys2Proof.Machine.execInboundInvalidOpcode c p r opcode s
  | .bankPowerUpDone c t => Sys2Proof.Machine.execBankPowerUpDone c t s
  | .arbLevelsInForce c => Sys2Proof.Machine.execArbLevelsInForce c s
  | .strobeDistributed => Sys2Proof.Machine.execStrobeDistributed s
  | .deniedRead ctx addr => Sys2Proof.Machine.execDeniedRead ctx addr s

end Sys2Proof.Machine
end

