-- ==== Sys2Proof/Safety.lean ====
section
/-! DEFINITION. The words the statements are made in: a command that completes, what a command leaves alone, an accepted
host-port command, the canonical form of array memory, and a running block. -/

namespace Sys2Proof.Machine

/-- The command answers a next state of which P holds. -/
def Completes (i : Instr) (s : State) (P : State → Prop) : Prop := ∃ t, exec i s = .next t ∧ P t

/-- No channel but c has changed (R9). -/
def OthersKept (c : Ch) (s t : State) : Prop := ∀ d : Ch, d ≠ c → ch t d = ch s d

/-- Nothing outside the channels has changed. -/
def BlockKept (s t : State) : Prop := { t with chans := s.chans } = s

/-- Nothing outside the channels has changed but the CT fields of registers, which counters are. -/
def BlockKeptButCt (s t : State) : Prop := { t with chans := s.chans, ct := s.ct } = s

/-- Every word of every array of a channel reads as before: of the code-block arrays and the queue memory. -/
def MemoryKept (k k' : Channel) : Prop := ∀ arr t row w, memWord k' arr t row w = memWord k arr t row w

/-- The array memories of all channels are in canonical form: keys rise, and no entry is the zero that an unlisted word reads
as. -/
def MemoryCanonical (s : State) : Prop := ∀ c : Ch, Tab.wf (ch s c).mem = true

/-- What the journal and the holds rest on (R364, R368, R371): a listed entry stands in the slot of its number, no number is
reached before its turn, the open commands stand in the order of their numbers, and the holds are aligned ranges in the 64
slots, no two of which share a line. -/
structure Ledgers (s : State) : Prop where
  numbered : ∀ n e, Tab.get? s.jrn n = some e → n = jSlot e.seq ∧ e.seq < s.jrnNext
  opened : ∀ e ∈ s.jrnOpen, e.seq < s.jrnNext
  once : s.jrnOpen.Pairwise fun x y => x.seq < y.seq
  ranges : ∀ n h, Tab.get? s.holds n = some h → n < 64 ∧ h.size ≤ 46 ∧ h.base.toNat % 2 ^ h.size = 0
  apart : ∀ m n g h, m ≠ n → Tab.get? s.holds m = some g → Tab.get? s.holds n = some h →
    overlaps g.base g.size h.base h.size = false

/-- A command written to the CM register at address a has been accepted as number n, and answered OK (R364, R367, R41). -/
def Taken (a : Nat) (s t : State) : Prop :=
  t.jrnNext = s.jrnNext + 1 ∧ Tab.get? t.cmSeq a = some s.jrnNext ∧ t.rsp = some ⟨0, 0⟩

/-- The journal entry of the command just accepted (Table 14-6): its context, CMD code, CHAN, ARG, T_ACCEPT, and state. -/
def Entered (ctx : Ctx) (cmd chan : Nat) (arg : Word) (st : JState) (s t : State) : Prop :=
  ∃ e, jEntry t s.jrnNext = some e ∧ e.ctx = ctx ∧ e.cmd = BitVec.ofNat 12 cmd ∧ e.chan = chan ∧ e.arg = arg ∧
    e.tAccept = s.tick ∧ e.state = st

/-- The state of the journal entry with a sequence number. -/
def journalState (s : State) (n : Nat) : Option JState := (jEntry s n).map (·.state)

/-- A record has been written to sub-buffer p of queue q, if the sub-buffer has any room at all (R378, R379). -/
def Recorded (c : Ch) (q p : Nat) (s t : State) : Prop :=
  (share s c q p).1 ≠ 0 → ((queueOf (ch t c) q).at p).wr = (((queueOf (ch s c) q).at p).wr + 1) % 8192

/-- A host-port write at address a reaches the register: the block is out of reset, the address is mapped and aligned, its page
is in service, and the context may write it (R41, R351). -/
abbrev WriteReaches (s : State) (ctx : Ctx) (a : Nat) : Prop := hostGuard s ctx a = none

/-- A host-port read at address a reaches the register. -/
abbrev ReadReaches (s : State) (ctx : Ctx) (a : Nat) : Prop := readGuard s ctx a = none

/-- The flow store's row that a fetch takes, and the rows of an entry, have no error. -/
def FetchClean (s : State) (c : Ch) (t : TileId) (n a : Nat) : Prop :=
  rowOutcome (ch s c) (rowKey 7 0 (a / 8)) = .good ∧
    ∀ r ∈ entryRows n, overOutcome (tile s c t) t r.1 r.2 = .good

/-- Engine `odd` of tile t runs the flow of entry n = e, and the microword at its resume address is a legal one of class
`cls` (R217 to R219). -/
structure AtWord (s : State) (c : Ch) (t : TileId) (odd : Bool) (cls n : Nat) (e : Entry) : Prop where
  ready : stepReady s c t odd = some (n, e)
  running : e.aborted = false
  clean : FetchClean s c t n e.resume.toNat
  word : wordClass (microword (ch s c) e.resume.toNat) = cls
  legal : wordIllegal (microword (ch s c) e.resume.toNat) = false

/-- Entry n's microstep has committed (R222): PROGRESS has advanced, and P holds of the entry. -/
def Committed (t' : State) (c : Ch) (t : TileId) (n : Nat) (e : Entry) (P : Entry → Prop) : Prop :=
  ∃ e', entry? (tile t' c t) n = some e' ∧ e'.progress = e.progress + 1 ∧ P e'

/-- An entry after a microstep that commits and goes on at the next microword. -/
def stepped (tick : Nat) (e : Entry) : Entry :=
  { e with progress := e.progress + 1, resume := e.resume + 1, runLen := e.runLen + 1, readyAt := tick, watch := 0 }

/-- A channel with other values of what counting and recording write. -/
def recount (k : Channel) (m : Tab Word) (r : Tab Row) (b : Tab (Word × BitVec 8)) (q : Tab Queue)
    (o : Owed) : Channel :=
  { k with mem := m, rows := r, qBad := b, queues := q, owed := o }

/-- A channel is another but for what counting and recording write: the queue memory and its row states, the queues, and
the samples owed (R379, R436). -/
def Uncounted (k k' : Channel) : Prop :=
  recount k' k.mem k.rows k.qBad k.queues k.owed = k ∧
    (∀ x, x / 8 / 8192 / 16 ≠ 9 → Tab.word k'.mem x = Tab.word k.mem x) ∧
    ∀ x, x / 8192 / 16 ≠ 9 → Tab.get? k'.rows x = Tab.get? k.rows x

/-- State t is state s but for CT fields and for what counting and recording write in channel c. -/
def Noted (c : Ch) (s t : State) : Prop :=
  BlockKeptButCt s t ∧ OthersKept c s t ∧ Uncounted (ch s c) (ch t c)

/-- What the acceptance of a request of n lines does to its channel (R38, R177, R214). -/
def taken (p : Port) (now n : Nat) (k : Channel) : Channel :=
  { acceptEdge p now k with age := k.age + 1, nextRid := k.nextRid + n }

/-- The instance a request resolves to in state p. -/
def instOf (p : State) (c : Ch) (r : ReqIn) : InstId := resolve (ch p c) r.agent r.psel

/-- The edges a clear-sky packet of the request is put off by (R37). -/
def stretchOf (p : State) (c : Ch) (r : ReqIn) : Nat := (stretched (acceptEdge r.port p.pclk (ch p c)) r.port).toNat

/-- A request of one line crosses its port in state p, no row of Table 4-1 refuses it, and the gate permits it; no one holds or
waits for its line, and the rows its lookup reads have no error (R99, R101, R102). The channel has not been fenced on this very
edge. -/
structure Plain (p : State) (c : Ch) (op : ReqOp) (r : ReqIn) : Prop where
  accepts : mayAccept p c r.port = true
  unfenced : (ch p c).cause = .none
  unrefused : refusal p c (some op) r (instOf p c r) = none
  single : linesOf op r.subtype = 1
  permitted : permits op (gateCheck p c (.irq r.agent (instOf p c r)) r.laddr) = true
  page : (ch p c).pgRet.contains (regionOf r.laddr) = false
  on : (ch p c).pwr = .on
  unheld : openLine (ch p c) r.laddr = false
  landed : collision (ch p c) r.laddr p.pclk = false
  alone : absorber (ch p c) r.agent r.laddr = none
  banks : rawHeld p c (home r.laddr) .sf = false ∧ rawHeld p c (home r.laddr) .lc = false
  dirGood : ∀ x ∈ dirRows r.laddr, rowOutcome (ch p c) (rowKey x.1 (tileOf r.laddr) x.2) = .good
  tagsGood : ∀ copy, copy < 2 → ∀ h, h < 2 →
    rowOutcome (ch p c) (rowKey (3 + copy) (tileOf r.laddr) (lcSet r.laddr * 2 + h)) = .good
  found : (lookup (ch p c) r.laddr).bad = false

/-- The rows of a line's sets and of its tags have no error, and its sets agree with each other (R100). -/
structure RowsGood (p : State) (c : Ch) (l : LAddr) : Prop where
  dirGood : ∀ x ∈ dirRows l, rowOutcome (ch p c) (rowKey x.1 (tileOf l) x.2) = .good
  tagsGood : ∀ copy, copy < 2 → ∀ h, h < 2 → rowOutcome (ch p c) (rowKey (3 + copy) (tileOf l) (lcSet l * 2 + h)) = .good
  found : (lookup (ch p c) l).bad = false

/-- The rows of Table 4-2 for reads, UPGRADE and INV_ALL by agent a, as the table gives them: opcode, SUBTYPE, the state found,
the grant and the state after. `grows` says that the growth row holds, `hit` that the tags hit. -/
inductive ClearRow (a : AgentId) (grows hit : Bool) : ReqOp → BitVec 7 → Dir → BitVec 3 → Dir → Prop
  | shdI (sub : BitVec 7) : ClearRow a grows hit .rdShd sub .i grantS (if grows then .region a else .s (.ptrs [a]) none)
  | anyI (sub : BitVec 7) : ClearRow a grows hit .rdAny sub .i grantE (if grows then .region a else .x a)
  | ownI (sub : BitVec 7) : ClearRow a grows hit .rdOwn sub .i grantE (if grows then .region a else .x a)
  | shdS (sub : BitVec 7) (sh : Sharers) (f : Option AgentId) : sh.takes a = true →
      ClearRow a grows hit .rdShd sub (.s sh f) grantS (.s (sh.add a false) f)
  | anyS (sub : BitVec 7) (sh : Sharers) (f : Option AgentId) : sh.takes a = true →
      ClearRow a grows hit .rdAny sub (.s sh f) grantS (.s (sh.add a false) f)
  | ownS (sub : BitVec 7) (f : Option AgentId) : ClearRow a grows hit .rdOwn sub (.s (.ptrs [a]) f) grantE (.x a)
  | curI (sub : BitVec 7) : ClearRow a grows hit .rdCur sub .i grantI .i
  | curS (sub : BitVec 7) (sh : Sharers) (f : Option AgentId) : ClearRow a grows hit .rdCur sub (.s sh f) grantI (.s sh f)
  | upS (sub : BitVec 7) (sh : Sharers) (f : Option AgentId) : wantE sub = false → sh.exact = true → sh.has a = true →
      ClearRow a grows hit .upgrade sub (.s sh f) grantS (.s sh f)
  | upE (sub : BitVec 7) (f : Option AgentId) : wantE sub = true →
      ClearRow a grows hit .upgrade sub (.s (.ptrs [a]) f) grantE (.x a)
  | invI (sub : BitVec 7) : (ntOf sub = false ∨ hit = false) → ClearRow a grows hit .invAll sub .i grantI .i

/-- The directory update of a request that the clear-sky path decides in state p, to state `after` (R105). That it is written on
the verdict edge but not before an earlier one of the same sets, at a place chosen among what the earlier ones leave, is the
model's choice (assumption 96). -/
def updateOf (p : State) (c : Ch) (r : ReqIn) (after : Dir) : Landing :=
  ⟨r.laddr, ((ch p c).landings.filter fun d => setsMeet r.laddr d.line).foldl (fun n d => max n d.edge) (p.pclk + 2 + stretchOf p c r),
    after, placeFor (modCh c ahead p) c r.laddr after r.agent r.way, r.agent, instOf p c r⟩

/-- Table 4-2 decides the request in state p, with a grant and a state after, and the update needs no eviction (R104). -/
def Decides (p : State) (c : Ch) (op : ReqOp) (r : ReqIn) (g : BitVec 3) (after : Dir) : Prop :=
  Plain p c op r ∧
    ClearRow r.agent ((lookup (ch p c) r.laddr).sway.isSome && (lookup (ch p c) r.laddr).owner == r.agent)
      (lcFind (ch p c) r.laddr).isSome op r.subtype (lookup (ch p c) r.laddr).dir g after ∧
    (after = (lookup (ch p c) r.laddr).dir ∨ (updateOf p c r after).place ≠ .full)

/-- The line hits the tags, in way w, and its frame has no error. -/
def FrameHit (p : State) (c : Ch) (l : LAddr) (w : Nat) : Prop :=
  lcFind (ch p c) l = some w ∧ rowOutcome (ch p c) (frameKey (home l) (lcSet l) w) = .good

/-- The open request of a line just accepted (R79). -/
def opened (p : State) (c : Ch) (op : ReqOp) (r : ReqIn) (awaitW : Bool) : OpenReq :=
  ⟨(ch p c).nextRid, some r.port, op, r.agent, r.tag, r.laddr, instOf p c r, (ch p c).epoch, p.pclk, true, false, awaitW,
    awaitW, false, 2 * (ch p c).nextRid + 1⟩

/-- The clear-sky verdict of a request on its port's lane: edge 2 after acceptance, or 3 under the stretch (R35, R110). -/
def verdictOf (p : State) (c : Ch) (r : ReqIn) (v : Verdict) (sub : BitVec 7) : EgrPkt :=
  mkPkt (mkHdr v.code r.agent r.tag r.laddr (instOf p c r) sub) (p.pclk + 2 + stretchOf p c r) (portLane r.port)
    (some (ch p c).nextRid)

/-- The words of every array but the queue memory read as before. -/
def ArraysKept (k k' : Channel) : Prop := ∀ x, x / 8 / 8192 / 16 ≠ 9 → Tab.word k'.mem x = Tab.word k.mem x

/-- Entry n holds the grant of a bank's port, with an access left, and to the sets of line l if it has made one (R232, R235). -/
def Holds (s : State) (c : Ch) (t : TileId) (b : Bank) (n : Nat) (l : LAddr) : Prop :=
  ∃ g, grantOf (tile s c t) b = some g ∧ g.ent = n ∧ g.used < bankHold s c ∧ (g.set = none ∨ g.set = some (bankSet b l))

/-- An egress packet of tile t waits at the stop where its flit enters the rings (R269, R276). -/
def Leaves (s' : State) (s : State) (c : Ch) (t : TileId) (p : EgrPort) (P : EgrPkt → Prop) : Prop :=
  ∃ f ∈ (((ch s' c).ring (outRoute (ch s c) t).1).stop (outRoute (ch s c) t).2.1).out, ∃ pkt,
    f.body = .egress p pkt ∧ f.dest = (outRoute (ch s c) t).2.2 ∧ P pkt

/-- A clear-sky update of line l waits alone in its channel, at a place that it fits, and the line's sets have no error. -/
structure Waits (s : State) (c : Ch) (d : Landing) : Prop where
  alone : (ch s c).landings = [d]
  fits : ∃ hint, d.place = placeFor s c d.line d.after d.agent hint
  room : d.place ≠ .full
  dirGood : ∀ x ∈ dirRows d.line, rowOutcome (ch s c) (rowKey x.1 (tileOf d.line) x.2) = .good
  found : (lookup (ch s c) d.line).bad = false

/-- A slot carries a flit: as it was handed over but for its count of laps, with its CRC right (R267, R271). -/
def Carries (q : Slot) (f : Flit) (laps : Nat) : Prop :=
  ∃ g, q.flit = some g ∧ g.dest = f.dest ∧ g.src = f.src ∧ g.cls = f.cls ∧ g.pair = f.pair ∧ g.hdr = f.hdr ∧ g.payload = f.payload ∧
    g.body = f.body ∧ g.laps = laps ∧ g.crc = g.check

/-- A stop has nothing to put into a slot. -/
def Stop.nothing (p : Stop) : Prop := p.again = [] ∧ p.turn = none ∧ p.heads = []

/-- No engine of the tile runs entry n. -/
def OffEngine (s : State) (c : Ch) (t : TileId) (n : Nat) : Prop := ∀ odd, engineRun (tile s c t) odd ≠ some n

end Sys2Proof.Machine
end

