-- ==== Sys2Proof/Certificates/Slice0/Obligations.lean ====
section
/-! DEFINITION. The statements for the provers, one definition each; OBLIGATIONS.json lists them. -/

open Sys2Proof Sys2Proof.Machine

-- ## The step, reset, and what holds of every command

/-- A step takes the command at the front of the queue and runs it with the queue's rest; on an empty queue the block idles
(assumption 1). -/
def Obligations.StepRunsFront : Prop :=
  (∀ (i : Instr) (rest : List Instr) (s : State), s.pending = i :: rest →
    step s = exec i { s with pending := rest }) ∧
  ∀ s : State, s.pending = [] → step s = .next s

/-- Every command completes, and leaves the queue of waiting commands as it is. Both are the model's choices: a command whose event
is not due changes nothing (assumption 2), and the queue is the model's own (assumption 1). -/
def Obligations.QueueKept : Prop :=
  ∀ (i : Instr) (s : State), ∃ t, exec i s = .next t ∧ t.pending = s.pending

/-- Time passes by its own events alone: every command but COLD_RESET_ASSERT leaves the count of REFCLK ticks as it is, except
that BAROMETER_TICK out of cold reset advances it by one, and none turns the count of PCLK edges back (R5, R6). -/
def Obligations.TimeKept : Prop :=
  ∀ (i : Instr) (s t : State), exec i s = .next t → i ≠ .coldResetAssert →
    t.tick = (match i with | .barometerTick _ _ => if s.coldN then s.tick + 1 else s.tick | _ => s.tick) ∧ s.pclk ≤ t.pclk

/-- Every step keeps the array memories of all sixteen channels in canonical form. -/
def Obligations.StepKeepsMemory : Prop :=
  ∀ s t : State, MemoryCanonical s → step s = .next t → MemoryCanonical t

/-- Every step keeps what the journal and the holds rest on (R364, R368, R371): a listed entry stands in its number's slot, no
number is given twice or before its turn, the open commands stand in the order of their numbers, and no two holds, each an
aligned range in one of the 64 slots, share a line. -/
def Obligations.StepKeepsLedgers : Prop :=
  ∀ s t : State, Ledgers s → step s = .next t → Ledgers t

/-- At reset the array memories are in canonical form, and the journal and the holds are sound. -/
def Obligations.ResetInvariants : Prop := MemoryCanonical State.reset ∧ Ledgers State.reset

/-- What the spec gives for the end of cold reset: every channel QUIESCED with HA_FENCE high and its line cache ON (R416, R59,
R258), array memory empty (R318), levels, gauges, anchors, epoch and LFSRs at their reset values (Table 8-9, R321, R247), the
rings carrying nothing (R285), no queue record (R387), an empty journal whose next number is 1 (R369, R364), no hold (R371),
no image (Table 8-22), no partner lost, every agent LIVE and every instance but 0 FREE (R451, R398). -/
def Obligations.ResetState : Prop :=
  State.reset.pending = [] ∧ State.reset.tick = 0 ∧ State.reset.jrnNext = 1 ∧ State.reset.jrn = [] ∧
  State.reset.holds = [] ∧ State.reset.imgValid = 0 ∧ State.reset.imgResult = 0xFF ∧ State.reset.adLost = 0 ∧
  State.reset.mcLost = 0 ∧
  (∀ a : AgentId, agentLifeB State.reset a = .live) ∧
  (∀ i : InstId, instStateB State.reset i = if i = 0 then .active else .free) ∧
  ∀ c : Ch, (ch State.reset c).pwr = .quiesced ∧ (ch State.reset c).fence = true ∧ (ch State.reset c).cause = .none ∧
    (ch State.reset c).lc = .on ∧ (ch State.reset c).mem = [] ∧ (ch State.reset c).rows = [] ∧
    (ch State.reset c).anchors = [] ∧ (ch State.reset c).epoch = 0 ∧ (ch State.reset c).queues = [] ∧
    (ch State.reset c).openReqs = [] ∧ (ch State.reset c).thresh = 0 ∧
    (∀ g : Fin 7, (ch State.reset c).gauges[g] = 0) ∧
    (∀ (r : Fin 8) (p : Fin 16), (((ch State.reset c).ring r).slot p.val).flit = none) ∧
    (∀ k : Fin 9, levelOf State.reset c k.val = [2, 3, 4, 5, 4, 1, 7, 0, 6].getD k.val 0) ∧
    ∀ t : TileId, (tile State.reset c t).lfsr = BitVec.ofNat 16 (0x1000 + 16 * c.val + t.val) ∧
      (tile State.reset c t).ents = [] ∧ (tile State.reset c t).slots = []

/-- What the host port reads right after reset: PG_CTL of the block identification page, and the control registers of the
clear-sky, coherence policy, line-cache and target gate pages of channel 0 (Tables 14-1, 4-7, 6-7, 9-5, 11-3). That a read
without an effect is the command DENIED_READ is the model's choice (assumption 50). -/
def Obligations.ResetRegisters : Prop :=
  Completes (.deniedRead 0 0x000010) State.reset (fun t => t.rsp = some ⟨0, 0x80010001⟩) ∧
  Completes (.deniedRead 0 0x102040) State.reset (fun t => t.rsp = some ⟨0, 1⟩) ∧
  Completes (.deniedRead 0 0x103040) State.reset (fun t => t.rsp = some ⟨0, 0x60296⟩) ∧
  Completes (.deniedRead 0 0x108040) State.reset (fun t => t.rsp = some ⟨0, 0x6482⟩) ∧
  Completes (.deniedRead 0 0x10B040) State.reset (fun t => t.rsp = some ⟨0, 0x6403⟩)

-- ## Addresses and encodings

/-- Bit j of a line's channel is the parity of the bits i < 40 of its region number with i mod 4 = j, and bit j of its tile that
of the bits with i mod 5 = j; both are functions of the line alone (R12, R13). -/
def Obligations.ChannelAndTile : Prop :=
  ∀ (l : LAddr) (j : Nat), j < 4 →
    (channelOf l).testBit j =
      ((List.range 40).filter fun i => i % 4 = j).foldl (fun p i => xor p ((regionOf l).getLsbD i)) false ∧
    (tileOf l).testBit j =
      ((List.range 40).filter fun i => i % 5 = j).foldl (fun p i => xor p ((regionOf l).getLsbD i)) false ∧
    channelOf l < 16 ∧ tileOf l < 16

/-- The set indices and tags of a line are the bit ranges of its address that Table 1-4 gives, and the line, with the bits
PA[51:44] that nothing stores, follows from its channel, its tile and the bits a slot or a frame stores (R17). -/
def Obligations.LineRecovered : Prop :=
  ∀ l : LAddr,
    let pa : BitVec 52 := BitVec.ofNat 52 (l.toNat * 64)
    cirrusSet l = (pa.extractLsb' 6 11).toNat ∧
    stratusSet l = (pa.extractLsb' 12 5).toNat * 64 + (pa.extractLsb' 17 6).toNat ∧
    sfTag l = (pa.extractLsb' 17 27).toNat ∧
    lcSet l = (pa.extractLsb' 6 8).toNat ∧
    lcTag l = (pa.extractLsb' 14 30).toNat ∧
    cirrusLine (channelOf l) (tileOf l) (cirrusSet l) (sfTag l) = l ∧
    stratusLine (channelOf l) (tileOf l) (stratusSet l) (sfTag l) (lineInRegion l) = l ∧
    frameLine (channelOf l) (tileOf l) (lcSet l) (lcTag l) = l

/-- The header of Table 3-1 loses nothing: 96 bits and ten fields are the same thing (R68). A tag entry (Table 9-1) and a
home tag (R81) give back the fields they were made of. -/
def Obligations.EncodingsRoundTrip : Prop :=
  ((∀ h : Header, Header.decode (Header.encode h) = h) ∧ ∀ w : BitVec 96, Header.encode (Header.decode w) = w) ∧
  ((∀ e : TagE, e.tag < 2 ^ 30 → TagE.decode (TagE.encode e) = e) ∧
  ∀ (t n : Nat) (g : BitVec 4), t < 16 → n < 256 →
    tagTile (homeTag t n g) = t ∧ tagEntry (homeTag t n g) = n ∧ tagGen (homeTag t n g) = g)

/-- A directory slot (Tables 5-1 and 5-2) gives back the entry it was written for: every cirrus entry in state S with pointers,
a coarse vector or a wide vector, every one in state X, and every stratus entry. -/
def Obligations.SlotRoundTrip : Prop :=
  ∀ (tag : Nat) (inst : InstId) (ref : Bool) (cont : BitVec 128) (ext : BitVec 64), tag < 2 ^ 27 →
    (∀ o : AgentId, decodeSlot (encodeSlot (.cirrus tag (.x o) inst ref)) cont ext = .cirrus tag (.x o) inst ref) ∧
    (∀ (l : List AgentId) (f : Option AgentId), l.length ≤ 4 →
      decodeSlot (encodeSlot (.cirrus tag (.s (.ptrs l) f) inst ref)) cont ext = .cirrus tag (.s (.ptrs l) f) inst ref) ∧
    (∀ (g : BitVec 64) (f : Option AgentId),
      decodeSlot (encodeSlot (.cirrus tag (.s (.coarse g) f) inst ref)) cont ext =
        .cirrus tag (.s (.coarse g) f) inst ref) ∧
    (∀ (v : BitVec 256) (f : Option AgentId),
      decodeSlot (encodeSlot (.cirrus tag (.s (.wide v) f) inst ref)) (v.extractLsb' 64 128) (v.extractLsb' 192 64) =
        .cirrus tag (.s (.wide v) f) inst ref) ∧
    ∀ (o : AgentId) (m : BitVec 64),
      decodeSlot (encodeSlot (.stratus tag o m inst ref)) cont ext = .stratus tag o m inst ref

-- ## The host port

/-- BLK_IDENT reads as in Table 0-2 in every state, and a write of it changes nothing but the answer (R3). -/
def Obligations.BlkIdent : Prop :=
  ∀ (s : State) (ctx : Ctx) (v : Word),
    (ReadReaches s ctx 0x40 →
      exec (.deniedRead ctx 0x40) s = .next (sendRsp ⟨0, 0x4B4D_0110_1011_1640#64⟩ s)) ∧
    (WriteReaches s ctx 0x40 → exec (.registerWrite ctx 0x40 v) s = .next (sendRsp ⟨0, 0⟩ s))

/-- An access to an address that is not mapped or not aligned is answered DECODE, one to a page out of service UNAVAIL, also
where the page denies it to the context (the model's order of checks, assumption 61), and neither changes anything else (R41,
R444, R461). While 8 answers wait for the host none is taken, and it changes nothing (R40). A read that the page's READ bits
deny to the context is answered DENIED with zero, and counted in PG_REJECT.DENIED of the page, which saturates; a write that
WRITE denies likewise (R351, R41, Table 14-1). Nothing else changes. -/
def Obligations.AccessAnswers : Prop :=
  (∀ (s : State) (ctx : Ctx) (addr : HpAddr) (v : Word), 8 ≤ s.rspQ.length →
    exec (.registerWrite ctx addr v) s = .next s ∧ exec (.deniedRead ctx addr) s = .next s) ∧
  (∀ (s : State) (ctx : Ctx) (addr : HpAddr) (v : Word), hpReady s = true →
    (addr.toNat % 8 ≠ 0 ∨ pageOf addr.toNat = none →
      exec (.registerWrite ctx addr v) s = .next (sendRsp ⟨2, 0⟩ s) ∧
      exec (.deniedRead ctx addr) s = .next (sendRsp ⟨2, 0⟩ s)) ∧
    ∀ pg, addr.toNat % 8 = 0 → pageOf addr.toNat = some pg → pageDown s pg = true →
      exec (.registerWrite ctx addr v) s = .next (sendRsp ⟨3, 0⟩ s) ∧
      exec (.deniedRead ctx addr) s = .next (sendRsp ⟨3, 0⟩ s)) ∧
  (∀ (s : State) (ctx : Ctx) (addr : HpAddr) (v : Word) (pg : Page),
    hpReady s = true → addr.toNat % 8 = 0 → pageOf addr.toNat = some pg → pageDown s pg = false → ctx ≠ 0 →
    let rej := addr.toNat / 0x1000 * 0x1000 + 0x30
    let outcome (t : State) : Prop := t.rsp = some ⟨1, 0⟩ ∧ { t with rspQ := s.rspQ, ct := s.ct } = s ∧
      (∀ a, a ≠ rej → ctWord t a = ctWord s a) ∧
      bits (ctWord t rej) 32 16 = min (bits (ctWord s rej) 32 16 + 1) 0xFFFF ∧
      bits (ctWord t rej) 0 32 = bits (ctWord s rej) 0 32 ∧ bits (ctWord t rej) 48 16 = bits (ctWord s rej) 48 16
    ((appWord s (pg.base + 0x10)).getLsbD (16 + ctx.toNat) = false → Completes (.deniedRead ctx addr) s outcome) ∧
    ((appWord s (pg.base + 0x10)).getLsbD ctx.toNat = false → Completes (.registerWrite ctx addr v) s outcome))

/-- A write of a register whose fields are all CF is taken into the staged values, in either view, and into nothing else: the
applied values stay until a strobe (R352, R353). -/
def Obligations.StagedWrite : Prop :=
  ∀ (s : State) (ctx : Ctx) (addr : HpAddr) (v : Word),
    WriteReaches s ctx addr.toNat → (regOf addr.toNat).cf ≠ 0 →
    (regOf addr.toNat).lk = 0 → (regOf addr.toNat).ct = 0 → (regOf addr.toNat).cm = 0 → (regOf addr.toNat).wo = 0 →
    let f := firstView addr.toNat
    let m : Word := BitVec.ofNat 64 (regOf addr.toNat).cf
    Completes (.registerWrite ctx addr v) s fun t =>
      t.rsp = some ⟨0, 0⟩ ∧ { t with rspQ := s.rspQ, stg := s.stg } = s ∧
      stgWord t f = (stgWord s f &&& ~~~m) ||| (v &&& m) ∧ ∀ a, a ≠ f → stgWord t a = stgWord s a

/-- In the first view, an offset from 0x040 + SPAN on reads zero, and a write there changes nothing (R446; SPAN is
PG_CAP[31:16], Table 14-1). -/
def Obligations.BeyondSpan : Prop :=
  ∀ (s : State) (ctx : Ctx) (addr : HpAddr) (v : Word) (pg : Page),
    pageOf addr.toNat = some pg → 0x40 + pg.cap / 0x10000 ≤ addr.toNat % 0x1000 → addr.toNat % 0x1000 < 0x800 →
    (WriteReaches s ctx addr.toNat →
      exec (.registerWrite ctx addr v) s = .next (sendRsp ⟨0, 0⟩ s)) ∧
    (ReadReaches s ctx addr.toNat → exec (.deniedRead ctx addr) s = .next (sendRsp ⟨0, 0⟩ s))

-- ## Configuration: strobes, snapshots, locks, holds (14)

/-- UPD_CMD with a group is accepted while no strobe runs: it captures the staged values of the groups, every channel in service
gets it for its next quiet point, and a channel that is not misses it (R358, R359, R361). STROBE_DISTRIBUTED makes the entry
RUNNING. -/
def Obligations.StrobeStarts : Prop :=
  (∀ (s : State) (ctx : Ctx) (groups : BitVec 32), WriteReaches s ctx 0x1040 →
    s.strobe = none → groups ≠ 0 → (∀ o ∈ s.instOps, o.sync = none) →
    Completes (.updCmd ctx groups) s fun t =>
      Taken 0x1040 s t ∧ Entered ctx 0x001 16 (groups.setWidth 64) .accepted s t ∧
      t.strobe = some ⟨s.jrnNext, groups, captured s groups, servingMask s, 0, ~~~(servingMask s), false⟩ ∧
      ∀ c : Ch, ((servingMask s).getLsbD c.val = true → Pending.strobe s.jrnNext ∈ (ch t c).pendq) ∧
        ((servingMask s).getLsbD c.val = false → (ch t c).missed = (ch s c).missed ||| groups)) ∧
  ∀ (s : State) (x : Strobe) (e : JEntry), running s = true → s.strobe = some x → x.running = false →
    jEntry s x.seq = some e → e.state.isOpen = true →
    Completes .strobeDistributed s fun t =>
      t.strobe = some { x with running := true } ∧ journalState t x.seq = some .running

/-- SNAP_CMD is accepted while no snapshot is open, and its edge is the fourth tick (R362). At the snapshot edge SNAP_TIME takes
the time of the command that takes it (assumption 42: a later one is taken all the same), the pages of each selected channel in
service, and the block-level pages where they are selected, take the snapshot's number, the other pages keep theirs, and the
entry is DONE (R362, R363). -/
def Obligations.Snapshots : Prop :=
  (∀ (s : State) (ctx : Ctx) (chans : BitVec 16) (block : Bool), WriteReaches s ctx 0x2040 →
    s.snapOp = none → (chans ≠ 0 ∨ block = true) →
    Completes (.snapCmd ctx chans block) s fun t =>
      Taken 0x2040 s t ∧ t.snapOp = some (s.jrnNext, chans, block, s.tick + 4) ∧ t.held = s.held ∧ t.chans = s.chans) ∧
  (∀ (s : State) (n due : Nat) (chans : BitVec 16) (block : Bool) (e : JEntry), running s = true →
    s.snapOp = some (n, chans, block, due) → due ≤ s.tick → jEntry s n = some e → e.state.isOpen = true →
    Completes .snapshotEdge s fun t =>
      t.snapOp = none ∧ t.snapTime = s.tick ∧ journalState t n = some .done ∧ t.ct = s.ct ∧ t.chans = s.chans ∧
      (∀ p ∈ blkPages, Tab.get? t.snap p.base =
        if block then some (n % 2 ^ 48 + 2 ^ 48) else Tab.get? s.snap p.base) ∧
      ∀ c : Ch, ∀ p ∈ chanPages c.val, Tab.get? t.snap p.base =
        if chans.getLsbD c.val && (servingMask s).getLsbD c.val then some (n % 2 ^ 48 + 2 ^ 48)
        else Tab.get? s.snap p.base)

/-- PG_CTL written with LOCK locks its page from the write on: the page's lock bit is set, the applied values wait for the quiet
points, and the lock is a command of the journal (R355). Where no channel's quiet point is waited for, the lock's values are
applied at once and the entry is DONE (the model's reading, assumption 41); a lock of an agent table page then ends with the
tick (R475). A write of PG_CTL of a locked page is ignored, counted in PG_REJECT.LOCKED and answered OK (R356). -/
def Obligations.PageLocks : Prop :=
  ∀ (s : State) (ctx : Ctx) (page : HpAddr) (v : Word),
    let base := baseOf page.toNat
    WriteReaches s ctx (base + 0x10) →
    (pageLocked s base = false → v.getLsbD 32 = true → lockWaits s base ≠ 0 →
      Completes (.pageLock ctx page v) s fun t =>
        Taken (base + 0x10) s t ∧ pageLocked t base = true ∧ t.app = s.app ∧
        (∃ x ∈ t.locks, x.page = base ∧ x.seq = s.jrnNext ∧ x.waiting = lockWaits s base)) ∧
    (pageLocked s base = false → v.getLsbD 32 = true → lockWaits s base = 0 → (∀ x ∈ s.locks, x.seq ≠ s.jrnNext) →
      Completes (.pageLock ctx page v) s fun t =>
        Taken (base + 0x10) s t ∧ pageLocked t base = true ∧ t.chans = s.chans ∧
        (isTablePage base = true → t.app = s.app ∧ ∃ x ∈ t.locks, x.page = base ∧ x.seq = s.jrnNext ∧ x.waiting = 0) ∧
        (isTablePage base = false → journalState t s.jrnNext = some .done ∧ t.locks = s.locks ∧
          let lk : Word := BitVec.ofNat 64 (regOf (base + 0x10)).lk
          (Tab.rising s.stg = true → appWord t (base + 0x10) &&& lk = v &&& lk &&& 0xFFFFFFFF) ∧
          ∀ a, baseOf a ≠ base → appWord t a = appWord s a)) ∧
    (pageLocked s base = true →
      Completes (.pageLock ctx page v) s fun t =>
        t.rsp = some ⟨0, 0⟩ ∧ t.stg = s.stg ∧ t.app = s.app ∧ t.wo = s.wo ∧ t.jrnNext = s.jrnNext ∧
        bits (ctWord t (base + 0x30)) 48 16 = min (bits (ctWord s (base + 0x30)) 48 16 + 1) 0xFFFF)

/-- ACQUIRE of an aligned range that no hold meets and no range command of another context acts on takes the lowest free
slot at once: it is granted, its lease runs, and its entry is DONE (R371, Table 14-8). No lease has run out on this tick
(R373). The owner of a granted hold renews and releases it, and context 0 breaks it; a RENEW of another context is
refused, and changes no hold (R371, Table 14-8). A hold whose lease has run out lapses: the slot is free,
and its LAPSED count goes up by one modulo 2^40 (R373). A waiting ACQUIRE is granted once no range command of another
context acts on its range (Table 14-8). -/
def Obligations.AddressHolds : Prop :=
  (∀ (s : State) (ctx : Ctx) (base : LAddr) (size : BitVec 6) (lease : BitVec 10) (n : Nat), WriteReaches s ctx 0x4040 →
    (∀ x ∈ s.holds, x.2.lapsed s.tick = false) → n < 64 → Tab.get? s.holds n = none →
    (∀ m, m < n → (Tab.get? s.holds m).isSome = true) → size.toNat ≤ 46 → base.toNat % 2 ^ size.toNat = 0 →
    (∀ x ∈ s.holds, overlaps x.2.base x.2.size base size.toNat = false) → rangeOpen s ctx base size.toNat = false →
    Completes (.acquire ctx base size lease) s fun t =>
      Taken 0x4040 s t ∧ journalState t s.jrnNext = some .done ∧
      Tab.get? t.holds n = some ⟨base, size.toNat, ctx, true, leaseTicks lease.toNat, s.tick + leaseTicks lease.toNat,
        s.jrnNext⟩ ∧
      (∀ m, m ≠ n → Tab.get? t.holds m = Tab.get? s.holds m) ∧ t.chans = s.chans) ∧
  (∀ (s : State) (ctx : Ctx) (slot : BitVec 6) (lease : BitVec 10) (h : Hold), WriteReaches s ctx 0x4040 →
    (∀ x ∈ s.holds, x.2.lapsed s.tick = false) → Tab.get? s.holds slot.toNat = some h → h.granted = true →
    (h.owner = ctx → Completes (.renew ctx slot lease) s fun t => Taken 0x4040 s t ∧
      Tab.get? t.holds slot.toNat =
        some { h with lease := leaseTicks lease.toNat, expiry := s.tick + leaseTicks lease.toNat }) ∧
    (h.owner = ctx → Completes (.release ctx slot) s fun t => Taken 0x4040 s t ∧ Tab.get? t.holds slot.toNat = none) ∧
    (ctx = 0 → Completes (.breakHold ctx slot) s fun t => Taken 0x4040 s t ∧ Tab.get? t.holds slot.toNat = none) ∧
    (h.owner ≠ ctx → Completes (.renew ctx slot lease) s fun t =>
      t.rsp = some ⟨0, 0⟩ ∧ t.holds = s.holds ∧ t.jrnNext = s.jrnNext)) ∧
  (∀ (s : State) (slot : Fin 64) (h : Hold), running s = true → Tab.get? s.holds slot.val = some h →
    (h.granted = true → h.expiry ≤ s.tick → Completes (.holdLapse slot) s fun t =>
      Tab.get? t.holds slot.val = none ∧ (∀ m, m ≠ slot.val → Tab.get? t.holds m = Tab.get? s.holds m) ∧
      bits (ctWord t (0x4108 + 16 * slot.val)) 24 40 = (bits (ctWord s (0x4108 + 16 * slot.val)) 24 40 + 1) % 2 ^ 40) ∧
    (h.granted = false → rangeOpen s h.owner h.base h.size = false → Completes (.holdGranted slot) s fun t =>
      Tab.get? t.holds slot.val = some { h with granted := true, expiry := s.tick + h.lease } ∧ t.chans = s.chans ∧
      ∀ e, jEntry s h.seq = some e → e.state.isOpen = true → journalState t h.seq = some .done))

/-- The journal window of a context (R370): a write of a cursor presets the issuing context's own, and its latch answers no more;
word 0 of a slot whose entry the journal does not hold reads zero; word 3 of slot 7 advances the cursor by eight. -/
def Obligations.JournalWindow : Prop :=
  ∀ (s : State) (ctx : Ctx),
    (∀ (k : Fin 16) (v : Word), WriteReaches s ctx (0x3040 + 8 * k.val) → Completes (.jrnCur ctx k v) s fun t =>
      t.rsp = some ⟨0, 0⟩ ∧ jrnCur t ctx = v.toNat % 2 ^ 48 ∧ (∀ x : Ctx, x ≠ ctx → jrnCur t x = jrnCur s x) ∧
      Tab.get? t.windows ctx.toNat = none ∧ t.jrn = s.jrn) ∧
    (∀ j : Fin 8, ReadReaches s ctx (0x3100 + 32 * j.val) → s.jrnNext ≤ jrnCur s ctx + j.val →
      Completes (.jrnWindowRead ctx j 0) s fun t => t.rsp = some ⟨0, 0⟩ ∧ jrnCur t ctx = jrnCur s ctx ∧
        Tab.get? t.windows ctx.toNat = some ⟨some j.val, 0, 0, 0⟩) ∧
    (ReadReaches s ctx 0x31F8 → Completes (.jrnWindowRead ctx 7 3) s fun t =>
      jrnCur t ctx = (jrnCur s ctx + 8) % 2 ^ 48 ∧ t.jrn = s.jrn)

/-- ARB_PRIO is accepted while no change of levels is under way, and the levels stay; ARB_LEVELS_IN_FORCE puts all nine in force
at once (R237). -/
def Obligations.ArbiterLevels : Prop :=
  (∀ (s : State) (ctx : Ctx) (c : Ch) (v : BitVec 27), WriteReaches s ctx (addrC c 7 0x58) →
    (ch s c).newLevels = none → cmOpen s (addrC c 7 0x58) = false →
    Completes (.arbPrio ctx c v) s fun t => Taken (addrC c 7 0x58) s t ∧
      Entered ctx 0x104 c.val (v.setWidth 64) .running s t ∧ (ch t c).newLevels = some (v, s.jrnNext) ∧
      (ch t c).levels = (ch s c).levels ∧ OthersKept c s t) ∧
  ∀ (s : State) (c : Ch) (v : BitVec 27) (n : Nat), running s = true → (ch s c).newLevels = some (v, n) →
    Completes (.arbLevelsInForce c) s fun t => (ch t c).levels = v ∧ (ch t c).newLevels = none ∧ OthersKept c s t

-- ## The flow image (08)

/-- The first write of a digest register is applied; a later one is ignored (R227, R356). A load of QUIESCED channels is
accepted once the digest is set and while no load runs; ABORT ends it with RESULT 5 and the channels' VALID bits 0 (R228, R229,
Table 8-8). A beat of a running load is kept; from byte 64 on it is microword n - 8 of both copies of the flow store of every
named channel (R226, R228). The beat that completes the header ends the load FAILED where a header field is not as Table 8-7 has
it, and only goes on else; the beat that completes the image ends it: DONE with RESULT 0 and the channels' VALID bits set where
the digest is the one written, FAILED with RESULT 4 and the bits clear where it is not, and the microwords past the image's read
zero (R229, Tables 8-7, 8-8). Every end is recorded in queue 3 of the named channels. -/
def Obligations.FlowImage : Prop :=
  (∀ (s : State) (ctx : Ctx) (k : Fin 6) (v : Word), WriteReaches s ctx (imgDigestAddr k) →
    Completes (.imgDigest ctx k v) s fun t => t.rsp = some ⟨0, 0⟩ ∧
      Tab.get? t.wo (imgDigestAddr k) = some ((Tab.get? s.wo (imgDigestAddr k)).getD v) ∧
      ∀ a, a ≠ imgDigestAddr k → Tab.get? t.wo a = Tab.get? s.wo a) ∧
  (∀ (s : State) (ctx : Ctx), WriteReaches s ctx imgCmdAddr →
    (∀ channels : BitVec 16, s.load = none → digestSet s = true → channels ≠ 0 →
      (∀ c : Ch, channels.getLsbD c.val = true → (ch s c).pwr = .quiesced) →
      Completes (.imgCmd ctx channels) s fun t => Taken imgCmdAddr s t ∧
        Entered ctx 0x010 16 (channels.setWidth 64) .running s t ∧
        t.load = some ⟨s.jrnNext, channels, [], 0⟩ ∧ t.imgSeq = s.jrnNext ∧ t.chans = s.chans) ∧
    ∀ l : Load, s.load = some l →
      Completes (.imgAbort ctx) s fun t => Taken imgCmdAddr s t ∧ t.load = none ∧ t.imgResult = 5 ∧
        t.imgValid = s.imgValid &&& ~~~l.channels) ∧
  (∀ (s : State) (ctx : Ctx) (v : Word) (l : Load), WriteReaches s ctx imgDataAddr → s.load = some l →
    let l' : Load := { l with words := v :: l.words, count := l.count + 1 }
    let ended (result : Nat) (t : State) : Prop := t.load = none ∧ t.imgResult = BitVec.ofNat 8 result ∧ t.rsp = some ⟨0, 0⟩ ∧
      t.imgValid = (if result = 0 then s.imgValid ||| l.channels else s.imgValid &&& ~~~l.channels) ∧
      (∀ e, jEntry s l.seq = some e → e.state.isOpen = true →
        journalState t l.seq = some (if result = 0 then .done else .failed)) ∧
      ∀ c : Ch, (l.channels.getLsbD c.val = true → Recorded c 3 2 s t) ∧
        (l.channels.getLsbD c.val = false → ch t c = ch s c)
    (l.count < 7 → exec (.imgData ctx v) s = .next (sendRsp ⟨0, 0⟩ { s with load := some l' })) ∧
    (l.count = 7 → headerResult l' = none →
      exec (.imgData ctx v) s = .next (sendRsp ⟨0, 0⟩ { s with load := some l' })) ∧
    (l.count = 7 → ∀ result, headerResult l' = some result → Completes (.imgData ctx v) s (ended result)) ∧
    ((bits (l'.word 0) 0 32 ≠ 0x53554E4A → headerResult l' = some 1) ∧
      (headerResult l' = none → 64 ≤ l'.nwords ∧ l'.nwords ≤ 8192 ∧ l'.nwords % 8 = 0)) ∧
    (8 ≤ l.count → 8 + l'.nwords ≤ l.count + 1 → l.count < 8200 → headerResult l' = none →
      Completes (.imgData ctx v) s fun t =>
        ended (if imageDigest l'.words.reverse = digestWritten s then 0 else 4) t ∧
        ∀ c : Ch, l.channels.getLsbD c.val = true → ∀ i, i < 8192 →
          (l'.nwords ≤ i → microword (ch t c) i = 0) ∧
          (i < l'.nwords → i = l.count - 8 → microword (ch t c) i = v)) ∧
    (8 ≤ l.count → l.count + 1 < 8 + l'.nwords → l.count < 8200 →
      Completes (.imgData ctx v) s fun t => t.load = some l' ∧ t.rsp = some ⟨0, 0⟩ ∧
        ∀ c : Ch,
          (l.channels.getLsbD c.val = true → microword (ch t c) (l.count - 8) = v ∧
            memWord (ch t c) 8 0 ((l.count - 8) / 8) ((l.count - 8) % 8) = v) ∧
          (l.channels.getLsbD c.val = false → ch t c = ch s c)))

-- ## The line cache, the gate, and retirement (09, 11, 12)

/-- DISABLE of a line cache that is ON, with no range operation running, starts its drain; ENABLE of one that is OFF and has been
invalidated since turns it ON at once (R259 to R261, Table 9-4). -/
def Obligations.LineCacheSwitch : Prop :=
  ∀ (s : State) (ctx : Ctx) (c : Ch), WriteReaches s ctx (addrC c 8 0x48) → (ch s c).lcHeld = none →
    ((ch s c).lc = .on → maintBusy (ch s c) = false →
      Completes (.disable ctx c) s fun t => Taken (addrC c 8 0x48) s t ∧ Entered ctx 0x101 c.val 1 .running s t ∧
        (ch t c).lc = .draining ∧ (∃ j ∈ (ch t c).jobs, j.kind = .lcDrain ∧ j.seq = s.jrnNext) ∧ OthersKept c s t) ∧
    ((ch s c).lc = .off → (ch s c).invDone = true →
      Completes (.enable ctx c) s fun t => Taken (addrC c 8 0x48) s t ∧ Entered ctx 0x101 c.val 2 .done s t ∧
        (ch t c).lc = .on ∧ OthersKept c s t)

/-- CLEAN, INVALIDATE and CLEAN_INVALIDATE of an aligned range, or of every line, are accepted while no range operation of the
channel runs, its line cache is not draining, and no other context holds part of the range; the operation is then RUNNING
(R253, R372, Table 9-7). -/
def Obligations.RangeOperations : Prop :=
  ∀ (s : State) (ctx : Ctx) (c : Ch) (base : LAddr) (size : BitVec 6) (all : Bool),
    WriteReaches s ctx (addrC c 8 0x50) → maintBusy (ch s c) = false → (ch s c).lc ≠ .draining →
    (all = true ∨ size.toNat ≤ 46 ∧ base.toNat % 2 ^ size.toNat = 0) →
    heldByOther s ctx all base size.toNat = false →
    ∀ x ∈ [(Instr.clean ctx c base size all, 1), (Instr.invalidate ctx c base size all, 2),
        (Instr.cleanInvalidate ctx c base size all, 3)],
      Completes x.1 s fun t => Taken (addrC c 8 0x50) s t ∧
        Entered ctx 0x102 c.val (maintWord x.2 base size all) .running s t ∧ OthersKept c s t ∧
        ∃ j ∈ (ch t c).jobs, j.kind = .range (BitVec.ofNat 2 x.2) all base size.toNat ∧ j.seq = s.jrnNext ∧ j.ctx = ctx

/-- TG_SWAP to the other bank waits for the channel's next quiet point, or with GROUP_SYNC for the strobe of its page's group; a
swap to the bank in force is DONE at once (R300, Table 11-2). TG_LOCK sets the lock bits it names at once, and its rules wait
for the quiet point (R303). A swap ends with the tick in which every access checked under an older epoch had ended (R302, R475).
A notice window ends with its record to queue 6, and to the instance's own queue for an instance above 0 (R298). -/
def Obligations.GateSwaps : Prop :=
  (∀ (s : State) (ctx : Ctx) (c : Ch),
    (∀ bank sync : Bool, WriteReaches s ctx (addrC c 0xB 0x60) → cmOpen s (addrC c 0xB 0x60) = false →
      (ch s c).swapOpen = none →
      Completes (.tgSwap ctx c bank sync) s fun t => Taken (addrC c 0xB 0x60) s t ∧ OthersKept c s t ∧
        (ch t c).tgActive = (ch s c).tgActive ∧
        if bank = (ch s c).tgActive then journalState t s.jrnNext = some .done ∧ (ch t c).swapOpen = none
        else (ch t c).swapOpen = some (bank, sync, s.jrnNext, false) ∧
          (ch t c).pendq = (ch s c).pendq ++ (if sync then [] else [.swap bank s.jrnNext]) ∧
          journalState t s.jrnNext = some (if sync then .pending else .accepted)) ∧
    ∀ b : BitVec 32, WriteReaches s ctx (addrC c 0xB 0x70) → b.setWidth 64 &&& ~~~(tgLocks s c) ≠ 0 →
      Completes (.tgLock ctx c b) s fun t => Taken (addrC c 0xB 0x70) s t ∧ OthersKept c s t ∧
        tgLocks t c = tgLocks s c ||| b.setWidth 64 ∧
        Pending.regionLock ((b.setWidth 64 &&& ~~~(tgLocks s c)).setWidth 32) s.jrnNext ∈ (ch t c).pendq) ∧
  (∀ (s : State) (c : Ch),
    (∀ (bank sync : Bool) (n : Nat) (e : JEntry), running s = true → (ch s c).swapOpen = some (bank, sync, n, true) →
      Ripe.swap c ∈ s.ripe → jEntry s n = some e → e.state.isOpen = true →
      Completes (.gateSwapDone c) s fun t => (ch t c).swapOpen = none ∧ journalState t n = some .done ∧
        (ch t c).tgActive = (ch s c).tgActive ∧ OthersKept c s t) ∧
    ∀ (due n : Nat) (w : Word) (ep : BitVec 8) (i : InstId), serving s c = true → i.toNat ≤ 240 →
      (ch s c).notice = some (due, w, n, ep, i) → due ≤ s.tick →
      Completes (.gateNoticeWindowEnd c) s fun t => (ch t c).notice = none ∧ Recorded c 6 1 s t ∧
        (i ≠ 0 → Recorded c (15 + i.toNat) 1 s t) ∧ OthersKept c s t)

/-- RETIRE_SLOT, RETIRE_SET and RETIRE_PAGE of a channel that is ON or QUIESCED are accepted while no retirement runs, the lists
have room for the target and no other context holds lines of it; the retirement is then RUNNING (R323, R372). -/
def Obligations.Retirements : Prop :=
  ∀ (s : State) (ctx : Ctx) (c : Ch), WriteReaches s ctx (addrC c 0xC 0x90) → retireBusy (ch s c) = false →
    ((ch s c).pwr = .on ∨ (ch s c).pwr = .quiesced) →
    let started (i : Instr) (j : JobKind) : Prop := retireFits (ch s c) j = true → retireHeld s ctx j = false →
      Completes i s fun t => Taken (addrC c 0xC 0x90) s t ∧ journalState t s.jrnNext = some .running ∧
        OthersKept c s t ∧ ∃ x ∈ (ch t c).jobs, x.kind = j ∧ x.seq = s.jrnNext
    ∀ (t : TileId) (set : BitVec 11) (way : BitVec 4) (page : BitVec 40),
      started (.retireSlot ctx c t set way) (.retireSlot t set.toNat way.toNat) ∧
      (set.toNat ≤ 255 → started (.retireSet ctx c t set) (.retireSet t set.toNat)) ∧
      started (.retirePage ctx c page) (.retirePage page)

/-- FENCE of a channel in service that is not fenced for a cause raises HA_FENCE with cause COMMAND, and every request of a live
agent that still needs its VRS packet is answered ERR FENCED (R348, R58, Table 13-3). No MEM_RD_DD is left to cross MRQ (R203);
that the fence withdraws those that wait there, as never sent, is the model's choice (assumption 90). -/
def Obligations.FenceCommand : Prop :=
  ∀ (s : State) (ctx : Ctx) (c : Ch), WriteReaches s ctx (addrC c 0xD 0x48) → cmOpen s (addrC c 0xD 0x48) = false →
    (ch s c).pwr.serving = true → (ch s c).cause = .none →
    Completes (.fence ctx c) s fun t => Taken (addrC c 0xD 0x48) s t ∧ (ch t c).fence = true ∧
      (ch t c).cause = .command ∧ OthersKept c s t ∧ Recorded c 8 3 s t ∧
      (∀ x ∈ (ch t c).mrq, x.hdr.opcode ≠ 0x39) ∧
      ∀ q ∈ (ch s c).openReqs, owedFenced (ch s c) q = true → agentDead (ch s c) q.agent = false →
        ∃ x ∈ (ch t c).vrs, x.hdr.opcode = 0x15 ∧ x.hdr.agent = q.agent ∧ x.hdr.tag = q.tag ∧ x.hdr.laddr = q.laddr ∧
          x.hdr.subtype.toNat % 64 = 2

-- ## Notification queues (15)

/-- A pop takes the oldest record of the highest priority that holds one: word 0 with VALID, the further words into the hold
registers (zero beyond the record's length), and the sub-buffer's read pointer moves on; with no record it reads 0. The
record's stored words carry no damage here (R380, R382). -/
def Obligations.QueuePop : Prop :=
  ∀ (s : State) (ctx : Ctx) (c : Ch) (q : Fin 256), ReadReaches s ctx (queueAddr c q + 0x10) →
    (queueOf (ch s c) q).moving = false →
    (popPrio (queueOf (ch s c) q) = none → Completes (.qPop ctx c q) s fun t => t.rsp = some ⟨0, 0⟩ ∧ OthersKept c s t ∧
      ∀ p, p < 4 → ((queueOf (ch t c) q).at p).count = 0) ∧
    ∀ p, popPrio (queueOf (ch s c) q) = some p →
      let b := (queueOf (ch s c) q).at p
      let slot := (share s c q p).2 + b.rd % atLeast1 (share s c q p).1
      let w (n : Nat) : Word := poolWord (ch s c) slot n
      let len := bits (w 0) 56 2 + 1
      (∀ n, n < 4 → Tab.getD (ch s c).qBad (slot % 16384 / 2 * 8 + (slot % 2 * 4 + n)) (0, 0) = (0, 0)) →
      Completes (.qPop ctx c q) s fun t => t.rsp = some ⟨0, w 0 ||| 1#64 <<< 63⟩ ∧ OthersKept c s t ∧
        (queueOf (ch t c) q).at p = { b with rd := (b.rd + 1) % 8192 } ∧
        (∀ p', p' < 4 → p' ≠ p → (queueOf (ch t c) q).at p' = (queueOf (ch s c) q).at p') ∧
        (queueOf (ch t c) q).hold1 = (if 1 < len then w 1 else 0) ∧
        (queueOf (ch t c) q).hold2 = (if 2 < len then w 2 else 0) ∧
        (queueOf (ch t c) q).hold3 = (if 3 < len then w 3 else 0) ∧ MemoryKept (ch s c) (ch t c)

/-- A FLUSH of a queue is accepted while none is open (R384). At a record boundary, unless the queue is moving, it empties
the selected priorities and no other, leaves LOST as it is, and ends DONE. When the move of
a queue ends, the queue moves no more (R385). -/
def Obligations.QueueFlushes : Prop :=
  ((∀ (s : State) (ctx : Ctx) (c : Ch) (q : Fin 256) (prios : BitVec 4), WriteReaches s ctx (queueAddr c q + 0x40) →
    (queueOf (ch s c) q).flush = none → prios ≠ 0 →
    Completes (.queueFlush ctx c q prios) s fun t => Taken (queueAddr c q + 0x40) s t ∧
      (queueOf (ch t c) q).flush = some (s.jrnNext, prios) ∧ OthersKept c s t ∧
      journalState t s.jrnNext = some (if (queueOf (ch s c) q).moving then .pending else .accepted)) ∧
  ∀ (s : State) (c : Ch) (q : Fin 256) (n : Nat) (prios : BitVec 4) (e : JEntry), serving s c = true →
    (queueOf (ch s c) q).flush = some (n, prios) → (queueOf (ch s c) q).moving = false →
    jEntry s n = some e → e.state.isOpen = true →
    Completes (.queueFlushBoundary c q) s fun t => (queueOf (ch t c) q).flush = none ∧ journalState t n = some .done ∧
      t.ct = s.ct ∧ OthersKept c s t ∧ ∀ p, p < 4 →
        (prios.getLsbD p = true → ((queueOf (ch t c) q).at p).count = 0) ∧
        (prios.getLsbD p = false → (queueOf (ch t c) q).at p = (queueOf (ch s c) q).at p)) ∧
  (∀ (s : State) (c : Ch) (q : Fin 256), serving s c = true → (queueOf (ch s c) q).moving = true →
    Completes (.queueMoveEnd c q) s fun t => (queueOf (ch t c) q).moving = false ∧
      ((queueOf (ch s c) q).emptyAfter = false → OthersKept c s t ∧
        ∀ p, (queueOf (ch t c) q).at p = (queueOf (ch s c) q).at p))

-- ## Instances and agents (16, 20)

/-- The instance commands that change a state through every channel (Table 16-2): CREATE of a FREE instance whose minimum fits,
RESUME of one that is QUIESCING or QUIESCED, THAW of a FROZEN one and REMOVE of a QUIESCED or FROZEN one ask every channel in
service at its next quiet point; with SYNC the first three wait for a strobe of the group. QUIESCE of an ACTIVE instance makes
it QUIESCING and asks every channel in service (R405); with a tick that ends with nothing of it in flight, every channel having
applied that, it is QUIESCED (R475). FREEZE of a QUIESCED and FLUSHED instance makes it FROZEN (R407), in every channel. -/
def Obligations.InstanceStates : Prop :=
  (∀ (s : State) (ctx : Ctx) (i : InstId) (group : BitVec 5), WriteReaches s ctx instCmd → 1 ≤ i.toNat → i.toNat ≤ 240 →
    servingMask s ≠ 0 →
    let asked (op : Nat) (sync : Bool) (cmd : Instr) (st : IState) : Prop :=
      instBusy s op i = false → instMay s op i sync = true →
      Completes cmd s fun t => Taken instCmd s t ∧
        (op ≠ 2 → journalState t s.jrnNext = some (if sync then .pending else .accepted)) ∧
        (∃ o ∈ t.instOps, o.seq = s.jrnNext ∧ o.inst = i ∧ o.op = BitVec.ofNat 4 op ∧
          o.sync = if sync then some group else none) ∧
        ∀ c : Ch, serving s c = true → sync = false → Pending.inst i st s.jrnNext ∈ (ch t c).pendq
    (∀ sync, asked 0 sync (.create ctx i group sync) .active ∧ asked 2 sync (.resume ctx i group sync) .active ∧
      asked 5 sync (.thaw ctx i group sync) .active) ∧
    asked 9 false (.remove ctx i) .free) ∧
  (∀ (s : State) (ctx : Ctx) (i : InstId), 1 ≤ i.toNat → i.toNat ≤ 240 →
    (WriteReaches s ctx instCmd → instBusy s 1 i = false → instStateB s i = .active →
      Completes (.quiesce ctx i) s fun t => Taken instCmd s t ∧ instStateB t i = .quiescing ∧
        journalState t s.jrnNext = some .running ∧
        ∀ c : Ch, serving s c = true → Pending.inst i .quiescing s.jrnNext ∈ (ch t c).pendq) ∧
    (∀ o, running s = true → instStateB s i = .quiescing → quiescedDue s i = some o →
      Ripe.quiesce i ∈ s.ripe →
      Completes (.instanceQuiesced i) s fun t => instStateB t i = .quiesced ∧ (∀ c : Ch, instState (ch t c) i = .quiesced) ∧
        ∀ p ∈ t.instOps, p.seq ≠ o.seq) ∧
    (WriteReaches s ctx instCmd → instBusy s 4 i = false → instStateB s i = .quiesced → i ∈ s.flushed →
      Completes (.freeze ctx i) s fun t => Taken instCmd s t ∧ journalState t s.jrnNext = some .done ∧
        instStateB t i = .frozen ∧ ∀ c : Ch, instState (ch t c) i = .frozen))

/-- FLUSH of an instance starts a job over its naturally aligned range in every channel in service (R406). SAVE of a FROZEN
instance writes its 19-word image (R408, Table 16-3); RESTORE of a fitting image makes a FREE instance FROZEN (R409); RESET
empties its queue in every channel, but for the record of its own end (R410, R412), here where no such queue is moving. -/
def Obligations.InstanceData : Prop :=
  ∀ (s : State) (ctx : Ctx) (i : InstId), WriteReaches s ctx instCmd → 1 ≤ i.toNat → i.toNat ≤ 240 →
    (∀ (size : BitVec 6) (base : LAddr), instBusy s 3 i = false → size.toNat ≤ 46 →
      base.toNat % 2 ^ size.toNat = 0 → heldByOther s ctx false base size.toNat = false → servingMask s ≠ 0 →
      Completes (.flush ctx i size base) s fun t => Taken instCmd s t ∧ journalState t s.jrnNext = some .running ∧
        ∀ c : Ch, serving s c = true →
          ∃ j ∈ (ch t c).jobs, j.kind = .flush i base size.toNat ∧ j.seq = s.jrnNext) ∧
    (instBusy s 6 i = false → instStateB s i = .frozen →
      Completes (.save ctx i) s fun t => Taken instCmd s t ∧ journalState t s.jrnNext = some .done ∧
        t.saved = saveImage s i s.jrnNext ∧ t.saved.length = 19) ∧
    (instBusy s 7 i = false → instMay s 7 i false = true →
      Completes (.restore ctx i) s fun t => Taken instCmd s t ∧ journalState t s.jrnNext = some .done ∧
        instStateB t i = .frozen ∧ i ∉ t.flushed) ∧
    (instBusy s 8 i = false → (instStateB s i = .quiesced ∨ instStateB s i = .frozen) →
      (∀ c : Ch, (queueOf (ch s c) (15 + i.toNat)).moving = false) →
      Completes (.instanceReset ctx i) s fun t => Taken instCmd s t ∧ journalState t s.jrnNext = some .done ∧
        instStateB t i = instStateB s i ∧
        ∀ c : Ch, ∀ p, p < 4 → p ≠ 1 → ((queueOf (ch t c) (15 + i.toNat)).at p).count = 0)

/-- DECLARE_DEAD of a listed agent that is LIVE makes it dead in every channel in service at once (R340, R454). ADMIT of an agent
that is DEAD everywhere and whose adapter is not lost asks every channel in service at its next quiet point (R344). -/
def Obligations.AgentCommands : Prop :=
  ∀ (s : State) (ctx : Ctx) (a : AgentId), WriteReaches s ctx agCmd → agBusy s a = false →
    (agentKindB s a ≠ 0 → agentLifeB s a = .live →
      Completes (.declareDead ctx a) s fun t => Taken agCmd s t ∧ agentLifeB t a ≠ .live ∧
        ∀ c : Ch, serving s c = true → agentDead (ch t c) a = true) ∧
    (mayAdmit s a = true → Completes (.admitAgent ctx a) s fun t => Taken agCmd s t ∧ agentLifeB t a = .dead ∧
      ∀ c : Ch, (ch s c).pwr.serving = true → Pending.admission a s.jrnNext ∈ (ch t c).pendq)

-- ## Power and resets (17)

/-- The power commands. Of a channel that has none running or waiting (Table 17-3): DRAIN of one that is ON, and GATE or OFF of
one that is ON or QUIESCED, bring it into DRAINING with every anchor FREE (R420, R423); OFF of a GATED one clamps it, and its
flow image is no longer VALID (R424); UP of a QUIESCED one that may enter ON asks for its quiet point, or waits for SETTLED, and
without an image or a measured PCLK it is DONE at once, PARTIAL (R419); UP of a GATED or OFF one begins to run, or waits for
another's power-up (R56, R425); BANK_GATE starts the bank's drain, and BANK_UP powers it up (R427). A command whose target is
the channel's state is DONE at once. While another command runs, one is PENDING behind it (R426), but GATE and OFF run beside a
BANK_GATE (R441); one of the same operation, and any while one is PENDING, is busy and changes nothing (R365). -/
def Obligations.PowerCommands : Prop :=
  (∀ (s : State) (ctx : Ctx) (c : Ch), WriteReaches s ctx pwrCmd → pwrPending s c = none → pwrRunning s c = none →
    Tab.get? s.bankRun c = none →
    let running (t : State) (op tile : Nat) : Prop :=
      pwrRunning t c = some ⟨s.jrnNext, BitVec.ofNat 4 op, tile, false, false⟩ ∧ journalState t s.jrnNext = some .running
    ((ch s c).pwr = .on → Completes (.drain ctx c) s fun t => Taken pwrCmd s t ∧ running t 1 0 ∧
      (ch t c).pwr = .draining ∧ (ch t c).anchors = [] ∧ (ch t c).drainTick = s.tick) ∧
    (((ch s c).pwr = .on ∨ (ch s c).pwr = .quiesced) → (ch s c).cause = .none →
      ∀ x ∈ [(Instr.gate ctx c, 3), (Instr.off ctx c, 4)], Completes x.1 s fun t => Taken pwrCmd s t ∧ running t x.2 0 ∧
        (ch t c).pwr = .draining ∧ (ch t c).vacate = 1 ∧ (ch t c).anchors = []) ∧
    ((ch s c).pwr = .gated → Completes (.off ctx c) s fun t => Taken pwrCmd s t ∧ (ch t c).pwr = .off ∧
      t.imgValid.getLsbD c.val = false ∧ pwrRunning t c = none) ∧
    ((ch s c).pwr = .quiesced → (ch s c).cause = .none → Completes (.up ctx c) s fun t => Taken pwrCmd s t ∧
      OthersKept c s t ∧ (ch t c).pwr = .quiesced ∧
      (mayEnterOn s c = true → ddSettled s c = true → running t 2 0 ∧ Pending.resume ∈ (ch t c).pendq) ∧
      (mayEnterOn s c = true → ddSettled s c = false → running t 2 0 ∧ (ch t c).upWait = true ∧
        (ch t c).pendq = (ch s c).pendq) ∧
      (mayEnterOn s c = false → pwrRunning t c = none ∧ ∃ e, jEntry t s.jrnNext = some e ∧ e.state = .done ∧ e.result = 1 ∧
        e.detail = BitVec.ofNat 44 (2 ^ c.val))) ∧
    ((ch s c).pwr = .gated ∨ (ch s c).pwr = .off → (ch s c).cause = .none → Completes (.up ctx c) s fun t => Taken pwrCmd s t ∧
      t.chans = s.chans ∧ pwrRunning t c = some ⟨s.jrnNext, 2, 0, true, powersUp s c⟩ ∧
      journalState t s.jrnNext = some (if powersUp s c then .pending else .running)) ∧
    (∀ x ∈ [(Instr.drain ctx c, Pwr.quiesced), (Instr.up ctx c, .on), (Instr.gate ctx c, .gated), (Instr.off ctx c, .off)],
      (ch s c).pwr = x.2 → Completes x.1 s fun t => Taken pwrCmd s t ∧ journalState t s.jrnNext = some .done ∧
        t.chans = s.chans ∧ pwrRunning t c = none) ∧
    ∀ b : TileId,
      (((ch s c).pwr = .on ∨ (ch s c).pwr = .quiesced) → (tile s c b).gated = false →
        Completes (.bankGate ctx c b) s fun t => Taken pwrCmd s t ∧ running t 5 b.val ∧ OthersKept c s t ∧
          ∃ j ∈ (ch t c).jobs, j.kind = .bankDrain b.val ∧ j.seq = s.jrnNext) ∧
      ((tile s c b).gated = true →
        Completes (.bankUp ctx c b) s fun t => Taken pwrCmd s t ∧ running t 6 b.val ∧ OthersKept c s t ∧
          (tile t c b).powering = true)) ∧
  ∀ (s : State) (ctx : Ctx) (c : Ch) (b : TileId) (o : PwrOp), WriteReaches s ctx pwrCmd → pwrRunning s c = some o →
    ∀ x ∈ [(Instr.drain ctx c, 1, 0), (Instr.up ctx c, 2, 0), (Instr.gate ctx c, 3, 0), (Instr.off ctx c, 4, 0),
        (Instr.bankGate ctx c b, 5, b.val), (Instr.bankUp ctx c b, 6, b.val)],
      (o.op.toNat = x.2.1 ∨ o.waits = true ∨ (pwrPending s c).isSome = true → Completes x.1 s fun t =>
        t.rsp = some ⟨0, 0⟩ ∧ { t with rspQ := s.rspQ, ct := s.ct } = s) ∧
      (pwrPending s c = none → o.waits = false → o.op.toNat ≠ x.2.1 →
        (∀ u, Tab.get? s.bankRun c = some u → u.op.toNat ≠ x.2.1) →
        (o.op.toNat ≠ 5 ∨ x.2.1 ≠ 3 ∧ x.2.1 ≠ 4 → Completes x.1 s fun t => Taken pwrCmd s t ∧ t.chans = s.chans ∧
          t.pwrRun = s.pwrRun ∧ pwrPending t c = some ⟨s.jrnNext, BitVec.ofNat 4 x.2.1, x.2.2, false, false⟩ ∧
          journalState t s.jrnNext = some .pending) ∧
        (o.op.toNat = 5 → x.2.1 = 3 ∨ x.2.1 = 4 → (ch s c).pwr = .on ∨ (ch s c).pwr = .quiesced → (ch s c).cause = .none →
          Completes x.1 s fun t => Taken pwrCmd s t ∧ Tab.get? t.bankRun c = some o ∧
            pwrRunning t c = some ⟨s.jrnNext, BitVec.ofNat 4 x.2.1, 0, false, false⟩ ∧ (ch t c).pwr = .draining ∧
            (ch t c).vacate = 1))

/-- CH_RST of a channel that is ON, DRAINING or QUIESCED empties it and puts it in RESET: no entry, request, packet, anchor or
queue record is left, and its retirements stay, and its flow store where no image is being loaded (R417, R415,
Table 17-1). That the arbitration levels in force and the gated banks stay too is the model's choice (assumption 36). -/
def Obligations.ChannelReset : Prop :=
  ∀ (s : State) (ctx : Ctx) (c : Ch), WriteReaches s ctx (chRstAddr c) → (ch s c).pwr.serving = true →
    Completes (.chRst ctx c) s fun t => Taken (chRstAddr c) s t ∧ (ch t c).pwr = .reset ∧ (ch t c).fence = true ∧
      Tab.get? t.chRst c.val = some s.jrnNext ∧
      (ch t c).openReqs = [] ∧ (ch t c).anchors = [] ∧ (ch t c).queues = [] ∧
      (ch t c).vrs = [] ∧ (ch t c).dout = [] ∧ (ch t c).sno = [] ∧ (ch t c).mrq = [] ∧
      (∀ b : TileId, (tile t c b).ents = [] ∧ (tile t c b).slots = [] ∧ (tile t c b).gated = (tile s c b).gated) ∧
      (ch t c).setRet = (ch s c).setRet ∧ (ch t c).pgRet = (ch s c).pgRet ∧ (ch t c).levels = (ch s c).levels ∧
      ((∀ l, s.load = some l → l.channels.getLsbD c.val = false) → ∀ arr row w, arr = 7 ∨ arr = 8 → row < 8192 → w < 8 →
        memWord (ch t c) arr 0 row w = memWord (ch s c) arr 0 row w)

/-- A block reset (R48, R415): cold reset puts every register at its reset value and every channel in RESET, and keeps only the
queue of commands and the levels of the pins (the model's choices: assumptions 1 and 4, and assumption 16 for the values a
channel's internal state starts from); warm reset ends every open command FAILED (R366), keeps the journal's numbers and, where
no lock waits to be applied, the staged and applied values, releases every hold, and puts every channel that was in service in
RESET. -/
def Obligations.BlockResets : Prop :=
  (∀ s : State, Completes .coldResetAssert s fun t => t.coldN = false ∧ t.pending = s.pending ∧ t.adLevel = s.adLevel ∧
    t.mcLevel = s.mcLevel ∧ t.app = [] ∧ t.stg = [] ∧ t.ct = [] ∧ t.jrn = [] ∧ t.jrnNext = 1 ∧ t.holds = [] ∧
    ∀ c : Ch, ch t c = { Channel.fresh c.val with pwr := .reset }) ∧
  (∀ s : State, exec .coldResetRelease s = .next { s with coldN := true } ∧
    exec .warmResetRelease s = .next { s with warmN := true }) ∧
  ∀ s : State, running s = true → Completes .warmResetAssert s fun t => t.warmN = false ∧ t.coldN = true ∧
    t.jrnNext = s.jrnNext ∧ t.tick = s.tick ∧ t.holds = [] ∧ t.strobe = none ∧ t.load = none ∧
    (∀ n e, jEntry s n = some e → e.state.isOpen = true → journalState t n = some .failed) ∧
    (s.locks = [] → (∀ c : Ch, (ch s c).pendq = []) → t.app = s.app ∧ t.stg = s.stg) ∧
    ∀ c : Ch, ((ch s c).pwr ≠ .gated → (ch s c).pwr ≠ .off → (ch t c).pwr = .reset) ∧
      ((ch s c).pwr = .gated ∨ (ch s c).pwr = .off → (ch t c).pwr = (ch s c).pwr)

/-- What a drain comes to, with no command waiting behind it: a channel drained as a tick ended is QUIESCED and DRAIN is DONE
(R421, R475); a drain to vacate begins with the directory (R423); past DRAIN_LIMIT the command fails and the channel stays
DRAINING (R421). How a channel leaves and re-enters service: a vacated and settled channel is clamped GATED or OFF (R422, R423);
DD_SETTLE ticks after its last direct-delivery read it is settled, and an UP that waited for it asks for ON (R203, R419);
powering up leads through RESET (R425); a reset ends in QUIESCED, here with start-up tests that find nothing and where it is not
to return to ON (R416); a powered-up bank is no longer gated (R427). No command waits behind the running one. -/
def Obligations.ServiceChanges : Prop :=
  (∀ (s : State) (c : Ch) (o : PwrOp) (e : JEntry), serving s c = true → (ch s c).pwr = .draining →
    pwrRunning s c = some o → pwrPending s c = none → onAsked (ch s c) = false →
    jEntry s o.seq = some e → e.state.isOpen = true →
    (drained (ch s c) = true → (ch s c).vacate = 0 → o.op = 1 → Ripe.drain c ∈ s.ripe → Completes (.drainQuiesced c) s fun t =>
      (ch t c).pwr = .quiesced ∧ journalState t o.seq = some .done ∧ pwrRunning t c = none) ∧
    (drained (ch s c) = true → (ch s c).vacate = 1 → Completes (.drainQuiesced c) s fun t =>
      (ch t c).pwr = .draining ∧ (ch t c).vacate = 2 ∧ ∃ j ∈ (ch t c).jobs, j.kind = .vacateDir ∧ j.seq = o.seq) ∧
    ((ch s c).vacate ≤ 1 → (ch s c).limit = false → (ch s c).drainTick + drainLimit s ≤ s.tick →
      Completes (.drainLimitPassed c) s fun t => (ch t c).pwr = .draining ∧ (ch t c).limit = true ∧
        journalState t o.seq = some .failed ∧ pwrRunning t c = none)) ∧
  (∀ (s : State) (c : Ch),
    (∀ o, clampDue s c = true → pwrRunning s c = some o → pwrPending s c = none →
      Completes (.channelClamp c) s fun t => (ch t c).pwr = (if o.op = 4 then .off else .gated) ∧ pwrRunning t c = none ∧
        ∀ b : TileId, (tile t c b).ents = []) ∧
    (running s = true → (ch s c).settled = false ∨ (ch s c).upWait = true → (ch s c).lastDd + ddSettle s ≤ s.tick →
      ((ch s c).upWait = false ∨ mayEnterOn s c = true) →
      Completes (.ddSettleElapsed c) s fun t => (ch t c).settled = true ∧ (ch t c).pwr = (ch s c).pwr ∧
        OthersKept c s t ∧ BlockKept s t ∧ (ch t c).upWait = false ∧
        (ch t c).pendq = (ch s c).pendq ++ if (ch s c).upWait then [.resume] else []) ∧
    (powerUpDue s c = true → Completes (.channelPowerUp c) s fun t => (ch t c).pwr = .reset ∧ OthersKept c s t) ∧
    (resetMayEnd s c = true → (ch s c).resumeOn = false → pwrRunning s c = none →
      Completes (.channelResetDone c ⟨0, 0, 0, false, false⟩) s fun t => (ch t c).pwr = .quiesced ∧
        (ch t c).missed = 0 ∧ (ch t c).life = s.life ∧ (ch t c).ist = s.ist ∧ OthersKept c s t ∧
        Tab.get? t.chRst c.val = none) ∧
    ∀ b : TileId, running s = true → (tile s c b).powering = true → pwrPending s c = none →
      Completes (.bankPowerUpDone c b) s fun t => (tile t c b).gated = false ∧ (tile t c b).powering = false ∧
        pwrRunning t c = none)

-- ## The diagnostic window (20, 21)

/-- ENTER of a bank that may be held, and EXIT of the bank that is, wait for the channel's next quiet point while no other is
open (R459); a lease that has run out asks for the release there (R460). -/
def Obligations.RawHolds : Prop :=
  ∀ (s : State) (ctx : Ctx) (c : Ch) (b : TileId) (k : Bank),
    (WriteReaches s ctx 0xB048 → s.rawOpen = none → mayHold s c b k = true →
      Completes (.enter ctx c b k) s fun t => Taken 0xB048 s t ∧ t.rawOpen = some s.jrnNext ∧ t.raw = s.raw ∧
        (ch t c).pendq = (ch s c).pendq ++ [.rawHold b.val k s.jrnNext] ∧ OthersKept c s t) ∧
    (WriteReaches s ctx 0xB048 → s.rawOpen = none → rawHeld s c b k = true →
      Completes (.exit ctx c b k) s fun t => Taken 0xB048 s t ∧ t.rawOpen = some s.jrnNext ∧ t.raw = s.raw ∧
        (ch t c).pendq = (ch s c).pendq ++ [.rawEnd b.val k s.jrnNext] ∧ OthersKept c s t) ∧
    ∀ h, rawLapsed s c = some h → Completes (.rawHoldLapse c) s fun t =>
      Pending.rawEnd h.tile h.bank 0 ∈ (ch t c).pendq ∧ BlockKept s t ∧ OthersKept c s t

/-- A permitted raw read returns word 0 of the selected row as stored, and latches its eight words and its check bits
(R471). A permitted raw write of a directory or line-cache row outside the checker test mode makes the row's words
those of the write registers, with check bits that match (R473). -/
def Obligations.RawRows : Prop :=
  ∀ (s : State) (ctx : Ctx) (c : Ch) (arr row : Nat) (b : TileId), dgTarget s c = some (arr, b, row) →
    (ReadReaches s ctx (rawAddr c 0x48) → rawDenied s ctx c false = none →
      Completes (.dgRd ctx c) s fun t => t.rsp = some ⟨0, (rawRow (ch s c) arr b row).words.getD 0 0⟩ ∧
        (∀ w : Fin 8, (ch t c).dgHold[w] = (rawRow (ch s c) arr b row).words.getD w.val 0) ∧
        (ch t c).dgRow = (rawRow (ch s c) arr b row).row ∧ (ch t c).dgCol = (rawRow (ch s c) arr b row).col) ∧
    (WriteReaches s ctx (rawAddr c 0xF0) → rawDenied s ctx c true = none → arr ≤ 4 → cfC s c 0xC 0x88 0 1 = 0 →
      Completes (.dgWr ctx c) s fun t => Taken (rawAddr c 0xF0) s t ∧ journalState t s.jrnNext = some .done ∧
        OthersKept c s t ∧ rowOutcome (ch t c) (rowKey arr b.val row) = .good ∧
        (∀ w, w < 8 → memWord (ch t c) arr b.val row w = ctWord s (rawAddr c (0xA0 + 8 * w))) ∧
        ∀ a b' r w, a < 16 → b' < 16 → r < 8192 → w < 8 → (a, b', r) ≠ (arr, b.val, row) →
          memWord (ch t c) a b' r w = memWord (ch s c) a b' r w)

/-- READ and WRITE of the pool are accepted with POOL_EN, on a channel that is ON and not fenced, while no access of the channel
is open and the gate permits them; a retry of theirs is issued again after 100 ticks (R474). Each takes the next place in the
order of acceptance. The line's page is not retired. -/
def Obligations.PoolAccess : Prop :=
  ∀ (s : State) (ctx : Ctx) (c : Ch),
    let l : LAddr := (ctWord s (poolPage c 0x40)).setWidth 46
    (WriteReaches s ctx (poolPage c 0x90) → poolEn s = true → (ch s c).paBusy = none → (ch s c).pwr = .on →
      (ch s c).fence = false → (ch s c).cause = .none → (ch s c).pgRet.contains (regionOf l) = false →
      ∀ x ∈ [(Instr.read ctx c, false), (Instr.write ctx c, true)],
        (if x.2 then (gateCheck s c (.host ctx) l).wr else (gateCheck s c (.host ctx) l).rd) = true →
        Completes x.1 s fun t => Taken (poolPage c 0x90) s t ∧ OthersKept c s t ∧
          (ch t c).paBusy = some (s.jrnNext, x.2, (ch s c).nextRid) ∧ (ch t c).nextRid = (ch s c).nextRid + 1 ∧
          (ch t c).age = (ch s c).age + 1 ∧ (ch t c).paW.1 = l) ∧
    ∀ (n rid : Nat) (wr : Bool), reissueDue s c = true → (ch s c).paBusy = some (n, wr, rid) →
      (ch s c).pgRet.contains (regionOf (ch s c).paW.1) = false →
      Completes (.poolAccessReissue c) s fun t => OthersKept c s t ∧
        (ch t c).paBusy = some (n, wr, (ch s c).nextRid) ∧ (ch t c).nextRid = (ch s c).nextRid + 1 ∧
        (ch t c).age = (ch s c).age + 1

-- ## Quiet points and maintenance (14, 09)

/-- A quiet point takes everything that waits for the channel, and its ingress pauses for 16 edges (R359). A swap there
puts the other bank in force and advances the epoch (R300, R301); it ends with a later tick than any earlier one (R475). -/
def Obligations.QuietPoint : Prop :=
  ∀ (s : State) (c : Ch), serving s c = true → (ch s c).pendq ≠ [] →
    ((Pending.resume ∈ (ch s c).pendq → (ch s c).cause = .none) →
      Completes (.quietPoint c) s fun t => (ch t c).pendq = [] ∧ (ch t c).pause = s.pclk + 16) ∧
    ∀ (bank sync run : Bool) (n : Nat) (e : JEntry), (ch s c).pendq = [.swap bank n] →
      (ch s c).swapOpen = some (bank, sync, n, run) → jEntry s n = some e → e.state.isOpen = true →
      Completes (.quietPoint c) s fun t => (ch t c).tgActive = bank ∧ (ch t c).epoch = (ch s c).epoch + 1 ∧ Ripe.swap c ∉ t.ripe ∧
        (ch t c).swapOpen = some (bank, sync, n, true) ∧ journalState t n = some .running ∧ OthersKept c s t

/-- A step of a job selects the tile's next line and holds it, for a job that walks frames or lines; with none left the tile is
done, here of a job that has more tiles to walk (R254). A sweep takes the lines that an older tracker entry or waiting request
holds first, then the frames (the model's reading, assumption 103). A step that works on the directory asks for its port, and
works once it is granted (R232), and waits while a clear-sky update of the tile has still to land (the model's choice,
assumption 96): RETIRE_SLOT takes an invalid slot out of use and is DONE, or evicts the slot's line and is DONE when the
eviction has ended (R323); the vacate of a directory evicts its slots one after another (R423). -/
def Obligations.MaintenanceStep : Prop :=
  (∀ (s : State) (c : Ch) (b : TileId) (id : Nat) (j : Job), enginesRun s c = true → jobOf (ch s c) id = some j →
    (∀ t set way, j.kind ≠ .retireSlot t set way) → j.kind ≠ .vacateDir → (framesOnly j.kind = true → bankIn s c b = true) →
    j.tiles[b].fin = false → j.tiles[b].line = none → (∃ t : TileId, t ≠ b ∧ j.tiles[t].fin = false) →
    (snoopsFirst j.kind = true → landingIn s c b = false) →
    (∀ p l, nextTarget (ch s c) c b j.kind j.since j.tiles[b].pos = some (p, l) → jobHold (ch s c) l = none →
      Completes (.maintStep c b id) s fun t => BlockKept s t ∧ OthersKept c s t ∧ MemoryKept (ch s c) (ch t c) ∧
        ∃ j', jobOf (ch t c) id = some j' ∧ j'.tiles[b].line = some (l, (ch s c).nextRid) ∧ j'.tiles[b].pos = p) ∧
    (nextTarget (ch s c) c b j.kind j.since j.tiles[b].pos = none →
      Completes (.maintStep c b id) s fun t => BlockKept s t ∧ OthersKept c s t ∧
        ∃ j', jobOf (ch t c) id = some j' ∧ j'.tiles[b].fin = true)) ∧
  ∀ (s : State) (c : Ch) (b : TileId) (id : Nat) (j : Job), enginesRun s c = true → jobOf (ch s c) id = some j →
    j.tiles[b].fin = false → (∀ x ∈ (ch s c).jobs, x.id = id → x = j) →
    ((snoopsFirst j.kind || dirOnly j.kind) = true → landingIn s c b = true → exec (.maintStep c b id) s = .next s) ∧
    (landingIn s c b = false →
    let granted : Prop := stepGranted s c b .sf (.step id) = true
    let good (set : Nat) : Prop := ∀ x ∈ setRows set, rowOutcome (ch s c) (rowKey x.1 b x.2) = .good
    let room (set way : Nat) : Prop := evictTaken (tile s c b) < evictMax s c ∧
      slotHeld (ch s c) c b set (slotAt (ch s c) b set way) = false ∧ (freeEntry (tile s c b)).isSome = true
    let evicts (t : State) (n set way : Nat) (e : Entry) : Prop := entry? (tile t c b) n = some e ∧ e.work = .eviction ∧
      slotAt (ch t c) b set way = .invalid
    ((j.kind = .vacateDir ∨ ∃ t set way, j.kind = .retireSlot t set way) → ¬granted →
      Completes (.maintStep c b id) s fun t => BlockKept s t ∧ OthersKept c s t ∧ MemoryKept (ch s c) (ch t c) ∧
        (tile t c b).ents = (tile s c b).ents ∧ ∃ q ∈ reqsOf (tile t c b) .sf, q.who = .step id) ∧
    (∀ t set way, set < 2048 → way < 16 → j.kind = .retireSlot t set way → granted → isCont (ch s c) b set way = false →
      let mine : Nat × Nat × Nat × Bool := (b.val, set, way, false)
      (j.tiles[b].phase ≠ 1 → good set → slotAt (ch s c) b set way = .invalid →
        Completes (.maintStep c b id) s fun t => OthersKept c s t ∧ (ch t c).setRet = (ch s c).setRet ++ [mine] ∧
          ((∀ o : TileId, o ≠ b → j.tiles[o].fin = true) → jobOf (ch t c) id = none ∧
            ∀ e, jEntry s j.seq = some e → e.state.isOpen = true → journalState t j.seq = some .done)) ∧
      (j.tiles[b].phase ≠ 1 → good set → slotAt (ch s c) b set way ≠ .invalid → room set way →
        Completes (.maintStep c b id) s fun t => OthersKept c s t ∧ (ch t c).setRet = (ch s c).setRet ++ [mine] ∧
          ∃ n e, evicts t n set way e ∧ ∃ j', jobOf (ch t c) id = some j' ∧ j'.tiles[b].phase = 1 ∧ j'.tiles[b].ent = some n) ∧
      (j.tiles[b].phase = 1 → (∀ n, j.tiles[b].ent = some n → ∀ e, entry? (tile s c b) n = some e → e.work ≠ .eviction) →
        (∀ o : TileId, o ≠ b → j.tiles[o].fin = true) → Completes (.maintStep c b id) s fun t => OthersKept c s t ∧
          jobOf (ch t c) id = none ∧ (∀ e, jEntry s j.seq = some e → e.state.isOpen = true → journalState t j.seq = some .done))) ∧
    ∀ x, j.kind = .vacateDir → granted → (allSlots (ch s c)).find? (fun x => x.1 == b.val) = some x → good x.2.1 → x.2.1 < 2048 →
      room x.2.1 x.2.2.1 → Completes (.maintStep c b id) s fun t => OthersKept c s t ∧ ∃ n e, evicts t n x.2.1 x.2.2.1 e)

-- ## Requests (03, 04)

/-- RD_SPEC is accepted, counted and dropped: beyond its acceptance and what counting writes the state is as it was, so no
transaction opens and no packet leaves. Where no row of Table 4-1 refuses it, a counter that selects event 0x0A for it goes up
by one; here no counter freezes the others (R103). -/
def Obligations.RdSpecDropped : Prop :=
  ∀ (s : State) (c : Ch) (r : ReqIn),
    let p := passEdges r.gap s
    mayAccept p c r.port = true →
    Completes (.rdSpec c r) s fun t => Noted c (modCh c (taken r.port p.pclk 1) p) t ∧
      (refusal p c (some .rdSpec) r (instOf p c r) = none → gFrozen p c = false →
        (∀ k, k < 16 → (cntCfg p c k).getLsbD 12 = false) →
        ∀ k, k < 16 → selects (cntCfg p c k) 0x0A [] (occOf r.laddr r.agent (instOf p c r)) = true →
          bits (cntVal t c k) 0 48 = (bits (cntVal p c k) 0 48 + 1) % 2 ^ 48)

/-- A read of one line that Table 4-2 decides is answered by the clear-sky path (R104 to R106, R110, R111, R113). On a tag miss
with speculation on, MEM_RD_DD leaves on MRQ and GO with the table's grant follows on the port's lane of VRS; with speculation
off, MEM_RD leaves from a slot of the tile, and HOME follows, with its data to come, here where the line's fill is not placed.
On a tag hit HOME leaves, and RDATA from the line cache with SRC 0b00. The line is open until what it is owed has crossed. No
prefetch is due, and where one might be the next line's tags have no error. No read changes any array but the REF bits of the
directory, the tags on a hit, and the queues: a lookup finds the state it found, until the update of the verdict edge. -/
def Obligations.ReadsDecided : Prop :=
  ∀ (s : State) (c : Ch) (r : ReqIn) (op : ReqOp) (cmd : Instr) (g : BitVec 3) (after : Dir),
    (op, cmd) ∈ [(ReqOp.rdShd, Instr.rdShd c r), (.rdAny, .rdAny c r), (.rdOwn, .rdOwn c r), (.rdCur, .rdCur c r)] →
    let p := passEdges r.gap s
    let l := r.laddr
    Decides p c op r g after → mayPrefetch p c l = false →
    (prefetchOn p c l = true → ∀ copy, copy < 2 → ∀ h, h < 2 →
      rowOutcome (ch p c) (rowKey (3 + copy) (tileOf (l + 1)) (lcSet (l + 1) * 2 + h)) = .good) →
    let kept (tags : Bool) (t : State) : Prop := OthersKept c p t ∧ BlockKeptButCt p t ∧
      (∀ b : TileId, (tile t c b).ents = (tile p c b).ents) ∧
      (∀ x, 2 ≤ x / 8 / 8192 / 16 → x / 8 / 8192 / 16 ≠ 9 → (tags = true → x / 8 / 8192 / 16 ≠ 3 ∧ x / 8 / 8192 / 16 ≠ 4) →
        Tab.word (ch t c).mem x = Tab.word (ch p c).mem x) ∧
      (lookup (ch t c) l).dir = (lookup (ch p c) l).dir
    (lcFind (ch p c) l = none → cfC p c 2 0x40 0 1 = 1 → Completes cmd s fun t => kept false t ∧
      (ch t c).vrs = (ch p c).vrs ++ [verdictOf p c r .go (rdataSub g 0)] ∧
      (ch t c).mrq = (ch p c).mrq ++ [mkPkt { mkHdr 0x39 r.agent r.tag l (instOf p c r) 0 with hold := true }
        (p.pclk + 1 + stretchOf p c r) (portLane r.port) (some (ch p c).nextRid)] ∧
      (ch t c).openReqs = (ch p c).openReqs ++ [opened p c op r false] ∧ (ch t c).dout = (ch p c).dout ∧
      ∀ b : TileId, (tile t c b).slots = (tile p c b).slots) ∧
    (∀ n, lcFind (ch p c) l = none → cfC p c 2 0x40 0 1 = 0 → mrsFree (ch p c) = true → freeSlot (ch p c) (home l) = some n →
      placesWb p c l = false → Completes cmd s fun t => kept false t ∧
        (ch t c).vrs = (ch p c).vrs ++ [verdictOf p c r .home (rdataSub g 0)] ∧
        (ch t c).mrq = (ch p c).mrq ++ [mkPkt (mkHdr 0x38 0 (homeTagNow (ch t c) (home l) n) l (instOf p c r) 0)
          (p.pclk + 1 + stretchOf p c r) (portLane r.port) none] ∧
        (ch t c).openReqs = (ch p c).openReqs ++ [{ opened p c op r false with awaitD := true }] ∧
        (ch t c).dout = (ch p c).dout ∧ ∃ v, Tab.get? (tile t c (home l)).slots n = some v ∧ v.laddr = l ∧ v.agent = r.agent ∧
          v.tag = r.tag ∧ v.grant = g ∧ v.prefetch = false) ∧
    ∀ w, FrameHit p c l w → Completes cmd s fun t => kept true t ∧
      let e := tagAt (ch p c) (home l) (lcSet l) w
      (ch t c).vrs = (ch p c).vrs ++ [verdictOf p c r .home (rdataSub g 0)] ∧ (ch t c).mrq = (ch p c).mrq ∧
      (ch t c).dout = (ch p c).dout ++ [⟨{ mkHdr 0x32 r.agent r.tag l (instOf p c r) (rdataSub g 0) with poison := e.poison },
        frameData (ch p c) (home l) (lcSet l) w, ~~~0, p.pclk + 4 + stretchOf p c r, portLane r.port, .flow,
        some (ch p c).nextRid, none⟩] ∧
      (ch t c).openReqs = (ch p c).openReqs ++ [{ opened p c op r false with awaitD := true }]

/-- The directory follows the clear-sky path, on the verdict edge (R105). At the acceptance of a read, an UPGRADE or an INV_ALL
that Table 4-2 decides, and of an EVICT, which nothing answers, a lookup finds the state it found, and where the state
the table gives is another, its update waits. The state after an EVICT is the one without the requester; an EVICT of an agent
that is not recorded changes none (R132, R133). An edge before the update's leaves it waiting; on its edge it is written, and a
lookup then finds the new state, with a region of the requester's for a new owner where the table's stratus rule promotes
(R135). Which edge an update that meets an earlier one takes, and where it goes, is the model's choice (assumption 96). -/
def Obligations.DirectoryFollows : Prop :=
  (∀ (s : State) (c : Ch) (r : ReqIn),
    let p := passEdges r.gap s
    let l := r.laddr
    let now := (lookup (ch p c) l).dir
    let waits (after : Dir) (t : State) : Prop := (lookup (ch t c) l).dir = now ∧
      (ch t c).landings = (ch p c).landings ++ if after = now then [] else [updateOf p c r after]
    (∀ (op : ReqOp) (cmd : Instr) (g : BitVec 3) (after : Dir), (op, cmd) ∈ [(ReqOp.rdShd, Instr.rdShd c r),
        (.rdAny, .rdAny c r), (.rdOwn, .rdOwn c r), (.rdCur, .rdCur c r), (.upgrade, .upgrade c r), (.invAll, .invAll c r)] →
      Decides p c op r g after → prefetchOn p c l = false →
      (op.isRead = true → lcFind (ch p c) l = none → cfC p c 2 0x40 0 1 = 1) →
      (op.isRead = true → ∀ w, lcFind (ch p c) l = some w → rowOutcome (ch p c) (frameKey (home l) (lcSet l) w) = .good) →
      Completes cmd s (waits after)) ∧
    (Plain p c .evict r →
      let out (d : Dir) (t : State) : Prop := waits d t ∧ (ch t c).vrs = (ch p c).vrs ∧
        (ch t c).openReqs = (ch p c).openReqs ∧ OthersKept c p t ∧ BlockKeptButCt p t
      (now = .x r.agent ∨ now = .region r.agent → Completes (.evict c r) s (out .i)) ∧
      (∀ sh f, now = .s sh f → sh.yields r.agent = true → Completes (.evict c r) s (out
        (if (sh.remove r.agent).empty then .i else .s (sh.remove r.agent) (if f = some r.agent then none else f)))) ∧
      (now.records r.agent = false → Completes (.evict c r) s (out now)))) ∧
  ∀ (s : State) (c : Ch) (d : Landing), Waits s c d →
    let lk := lookup (ch s c) d.line
    let now := lk.dir
    let t := passEdges 1 s
    let sole : Prop := now = .i ∨ (∃ f, now = .s (.ptrs [d.agent]) f) ∨ now = .x d.agent ∨ now = .region d.agent
    (s.pclk + 1 < d.edge → (ch t c).landings = [d] ∧ ArraysKept (ch s c) (ch t c)) ∧
    (d.edge ≤ s.pclk + 1 → (ch t c).landings = [] ∧
      (d.after ≠ now → (∃ op sub g hit, ClearRow d.agent (lk.sway.isSome && lk.owner == d.agent) hit op sub now g d.after) ∨
          csEvicts now d.agent = true ∧ d.after = now.strike d.agent ∨
          sole ∧ (∃ sub, d.after = (afterWrite (ch s c) sub d.agent now).1) →
        (lookup (ch t c) d.line).dir = match d.place with
          | .grow | .stratus _ => .region d.agent
          | _ => d.after))

/-- The other requests. UPGRADE and INV_ALL that Table 4-2 decides are answered CMP with the table's grant at once, and a
binding of the agent for the line is used (R105, R194). WR_FULL for a line in state I, or of which the requester is the only
recorded holder, is answered CMP with the grant of its KEEP, the directory's update waits for its edge, and an entry holds the
line until its WDATA is placed (R107). UPGRADE, WR_PTL and ATOMIC, which Table 4-2 does not list with state I, are handed on: an
entry of the home tile becomes the line's head, and no verdict leaves (R104, R109). -/
def Obligations.LineRequests : Prop :=
  ∀ (s : State) (c : Ch) (r : ReqIn),
    let p := passEdges r.gap s
    let b := home r.laddr
    let k := ch p c
    let now := (lookup k r.laddr).dir
    let room : Prop := atMax p c (instOf p c r) = false ∧ 0 < genFreeFor p c b (instOf p c r) ∧
      (freeEntry (tile p c b)).isSome = true
    let mine (op : ReqOp) (e : Entry) : Prop := e.rid = k.nextRid ∧ e.op = some op ∧ e.agent = r.agent ∧ e.tag = r.tag ∧
      e.laddr = r.laddr ∧ e.head = true
    (∀ after, Decides p c .invAll r grantI after →
      Completes (.invAll c r) s fun t => Noted c (modCh c (fun k => push .vrs (verdictOf p c r .cmp (rdataSub grantI 0))
        { taken r.port p.pclk 1 k with openReqs := k.openReqs ++ [opened p c .invAll r false] })
          (useBinding c r.agent r.laddr (instOf p c r) p)) t) ∧
    (∀ g after, Decides p c .upgrade r g after →
      Completes (.upgrade c r) s fun t => OthersKept c p t ∧ BlockKeptButCt p t ∧
        (ch t c).vrs = k.vrs ++ [verdictOf p c r .cmp (rdataSub g 0)] ∧ (ch t c).mrq = k.mrq ∧ (ch t c).dout = k.dout ∧
        (ch t c).openReqs = k.openReqs ++ [opened p c .upgrade r false] ∧
        ∀ d : TileId, (tile t c d).ents = (tile p c d).ents) ∧
    (Plain p c .wrFull r → room →
      (now = .i ∨ (∃ f, now = .s (.ptrs [r.agent]) f) ∨ now = .x r.agent ∨ now = .region r.agent) →
      ((afterWrite k r.subtype r.agent now).1 = now ∨
        (updateOf p c r (afterWrite k r.subtype r.agent now).1).place ≠ .full) →
      let after : Dir := match now with
        | .s _ _ => if (afterWrite k r.subtype r.agent now).2 = grantS then now else (afterWrite k r.subtype r.agent now).1
        | _ => (afterWrite k r.subtype r.agent now).1
      Completes (.wrFull c r) s fun t => OthersKept c p t ∧ BlockKeptButCt p t ∧
        (ch t c).vrs = k.vrs ++ [verdictOf p c r .cmp (rdataSub (afterWrite k r.subtype r.agent now).2 0)] ∧
        (ch t c).landings = k.landings ++ (if after = now then [] else [updateOf p c r after]) ∧
        ∃ n e, entry? (tile t c b) n = some e ∧ mine .wrFull e ∧ e.verdict = true ∧
          ∃ w ∈ (ch t c).wexp, w.rid = k.nextRid ∧ w.use = .clearSky b.val n) ∧
    ∀ (op : ReqOp) (cmd : Instr), (op, cmd) ∈ [(ReqOp.upgrade, Instr.upgrade c r), (.wrPtl, .wrPtl c r), (.atomic, .atomic c r)] →
      Plain p c op r → now = .i → room → Completes cmd s fun t => OthersKept c p t ∧ BlockKeptButCt p t ∧ (ch t c).vrs = k.vrs ∧
        ArraysKept k (ch t c) ∧ ∃ n e, entry? (tile t c b) n = some e ∧ mine op e ∧ e.verdict = false

/-- What the ingress answers by itself. BI_CONFLICT with no snoop to the agent for the line unanswered is answered
BI_CONFLICT_ACK (R186), on lane 2 and due on the next edge (the model's choice, assumption 48). An opcode that is not valid on
the request ports is answered ERR with reason PROTOCOL, where the line is the channel's, and nothing else happens (R74, Table
4-1). A request that a row of Table 4-1 refuses gets, for each of its lines, the verdict of the first such row, and its write
data is dropped; RD_SPEC and EVICT are dropped unanswered (R102). A request that the gate denies is answered ERR GATE_FAULT,
with DDX where it has issued its speculative read; a posted write that it denies gets CMP with GRANT I, takes no entry, and its
data is dropped (R108, R297). A request that comes while the channel drains, or for a line that maintenance holds and its agent
is not bound for, is answered RETRY with REASON 1, one that an open line or its instance's maximum keeps out RETRY with REASON 0
(Table 7-2, R178). A request that is not refused, on the very edge on which its channel has been fenced for a cause, is answered
ERR FENCED for each of its lines (R58). -/
def Obligations.IngressAnswers : Prop :=
  ∀ (s : State) (c : Ch) (r : ReqIn),
    let p := passEdges r.gap s
    let k := ch p c
    let i := instOf p c r
    mayAccept p c r.port = true →
    let asks : List (ReqOp × Instr) := [(.rdShd, .rdShd c r), (.rdAny, .rdAny c r), (.rdOwn, .rdOwn c r), (.rdCur, .rdCur c r),
      (.upgrade, .upgrade c r), (.invAll, .invAll c r), (.wrFull, .wrFull c r), (.wrPtl, .wrPtl c r), (.atomic, .atomic c r)]
    let alone (t : State) : Prop := OthersKept c p t ∧ BlockKeptButCt p t ∧ ∀ b : TileId, (tile t c b).ents = (tile p c b).ents
    let sinks (op : ReqOp) (n : Nat) (t : State) : Prop :=
      op.hasData = true → ∀ j, j < n → ∃ w ∈ (ch t c).wexp, w.rid = k.nextRid + j ∧ w.use = .drop
    (k.cause ≠ .none → ∀ x ∈ asks, refusal p c (some x.1) r i = none → ∀ j, j < linesOf x.1 r.subtype →
      verdictOut k (k.nextRid + j) = false → Completes x.2 s fun t => ∃ y ∈ (ch t c).vrs, y.req = some (k.nextRid + j) ∧
        y.hdr.opcode = Verdict.err.code ∧ y.hdr.agent = r.agent ∧ y.hdr.tag = r.tag ∧
        y.hdr.laddr = r.laddr + BitVec.ofNat 46 j ∧ y.hdr.subtype.toNat % 64 = errFenced) ∧
    (k.cause = .none →
    (refusal p c (some .biConflict) r i = none →
      ((tile p c (home r.laddr)).ents.any fun x => unanswered x.2 r.agent r.laddr) = false →
      Completes (.biConflict c r) s fun t => alone t ∧
        mkPkt (mkHdr Verdict.ack.code r.agent r.tag r.laddr i 0) (p.pclk + 1) 2 (some k.nextRid) ∈ (ch t c).vrs) ∧
    (∀ code : BitVec 6, irqOpcode code = false → offChannel c r.laddr 1 = false →
      Completes (.irqInvalidOpcode c r code) s fun t =>
        Noted c (modCh c (fun k => push .vrs (verdictOf p c r .err (endSub errProtocol false))
          { taken r.port p.pclk 1 k with openReqs := k.openReqs ++ [opened p c .biConflict r false] }) p) t) ∧
    (∀ x ∈ asks ++ [(.biConflict, .biConflict c r)],
      let n := linesOf x.1 r.subtype
      let lines : Prop := offChannel c r.laddr n = true ∨ crossesRegion r.laddr n = true
      let wrong : Prop := permitted x.1 (agentKind k r.agent) = false ∨ badSubtype x.1 r.subtype = true
      let refused (v : Verdict) (sub : BitVec 7) (t : State) : Prop := alone t ∧ ArraysKept k (ch t c) ∧ (ch t c).mrq = k.mrq ∧
        (ch t c).vrs = k.vrs ++ (List.range n).map (fun j => mkPkt
          (mkHdr v.code r.agent r.tag (r.laddr + BitVec.ofNat 46 j) i sub) (p.pclk + 2 + stretchOf p c r) (portLane r.port)
          (some (k.nextRid + j))) ∧ sinks x.1 n t
      (lines → Completes x.2 s fun t => refused .err (endSub errMisroute false) t ∧ Recorded c 0 1 p t) ∧
      (¬lines → wrong → Completes x.2 s (refused .err (endSub errUnsupported false))) ∧
      (¬lines → ¬wrong → agentDead k r.agent = true → Completes x.2 s (refused .err (endSub errAgentDead false))) ∧
      (¬lines → ¬wrong → agentDead k r.agent = false → instState k i ≠ .active →
        Completes x.2 s (refused .retry (endSub 3 false)))) ∧
    (∀ x ∈ [(ReqOp.rdSpec, Instr.rdSpec c r), (.evict, .evict c r)], refusal p c (some x.1) r i ≠ none →
      Completes x.2 s fun t => Noted c (modCh c (taken r.port p.pclk (linesOf x.1 r.subtype)) p) t) ∧
    ∀ x ∈ asks, refusal p c (some x.1) r i = none → linesOf x.1 r.subtype = 1 → RowsGood p c r.laddr →
      let allowed : Bool := permits x.1 (gateCheck p c (.irq r.agent i) r.laddr)
      let spec : Prop := x.1.isRead = true ∧ cfC p c 2 0x40 0 1 = 1 ∧ k.pgRet.contains (regionOf r.laddr) = false ∧
        rawHeld p c (home r.laddr) .lc = false ∧ lcFind k r.laddr = none ∧ drainHold k = false ∧
        openLine k r.laddr = false ∧ collision k r.laddr p.pclk = false
      let retried (reason : Nat) (P : EgrPkt → Prop) (t : State) : Prop := alone t ∧ sinks x.1 1 t ∧
        ∃ y, (ch t c).vrs = k.vrs ++ [y] ∧ P y ∧ ∃ anchor,
          y = mkPkt { mkHdr Verdict.retry.code r.agent r.tag r.laddr i (endSub reason false) with anchor := anchor }
            (p.pclk + 2 + stretchOf p c r) (portLane r.port) (some k.nextRid)
      (allowed = false → x.1.isWrite = false →
        (spec → Completes x.2 s fun t => alone t ∧ sinks x.1 1 t ∧
          (ch t c).vrs = k.vrs ++ [verdictOf p c r .err (endSub errGate true)] ∧
          (ch t c).mrq = k.mrq ++ [mkPkt { mkHdr 0x39 r.agent r.tag r.laddr i 0 with hold := true }
            (p.pclk + 1 + stretchOf p c r) (portLane r.port) (some k.nextRid)]) ∧
        (¬spec → Completes x.2 s fun t => alone t ∧ sinks x.1 1 t ∧
          (ch t c).vrs = k.vrs ++ [verdictOf p c r .err (endSub errGate false)] ∧ (ch t c).mrq = k.mrq)) ∧
      (allowed = false → x.1.isWrite = true → Completes x.2 s fun t => alone t ∧ sinks x.1 1 t ∧
        (ch t c).vrs = k.vrs ++ [verdictOf p c r .cmp (rdataSub grantI 0)] ∧ (ch t c).mrq = k.mrq ∧
        (ch t c).notice.isSome = true) ∧
      (allowed = true → k.pgRet.contains (regionOf r.laddr) = false → (x.1.isWrite = true → absorber k r.agent r.laddr = none) →
        (drainHold k = true → Completes x.2 s (retried 1 (·.hdr.anchor = false))) ∧
        (drainHold k = false → boundTo k r.agent r.laddr = false →
          (maintHeld k r.laddr = true → Completes x.2 s (retried 1 fun _ => True)) ∧
          (maintHeld k r.laddr = false → openLine k r.laddr = true → atMax p c i = true →
            Completes x.2 s (retried 0 fun _ => True)))))

-- ## Answers, data, and the egress ports (02, 03)

/-- A snoop answer that matches a snoop which has crossed SNO, is unanswered, and may be answered so (Table 6-3), is taken: the
answer is kept, its data is then due, and a flit carries it to the tile. SDATA due of an agent that is not dead is taken
likewise, and so is the answer of an open memory request on MRS (R90, R94, R155). A port takes one packet on an edge (R26). -/
def Obligations.AnswersTaken : Prop :=
  ∀ (s : State) (c : Ch),
    (∀ (r : RspIn) (x : Ans) (cmd : Instr), (x, cmd) ∈ [(Ans.i, Instr.rspI c r), (.s, .rspS c r), (.e, .rspE c r),
        (.iD, .rspID c r), (.sD, .rspSD c r)] →
      let p := passEdges r.gap s
      portOpen p c .sni = true → (ch p c).cause = .none →
      ∀ (b n : Nat) (e : Entry) (q : Snp), tagged (ch p c) r.tag = some (b, n, e) →
        e.snoops.find? (fun q => q.agent == r.agent && q.laddr == r.laddr && q.out && q.crossed && q.ans.isNone) = some q →
        answerAllowed (ch p c) e q x = true →
        Completes cmd s fun t => Noted c (modCh c
          (sendIn b .rsp 0 (mkHdr x.code r.agent r.tag r.laddr 0 0) 0 (.inbound 0))
          (modEntry c (tileN b) n (modSnp r.agent r.laddr fun q =>
            { q with crossed := false, ans := some x, dataDue := x.hasData }) (modCh c (tookIn .sni p.pclk) p))) t) ∧
    ∀ (d : DataIn),
      let p := passEdges d.gap s
      let flit (op : BitVec 6) (b : Nat) : Channel → Channel :=
        sendIn b .rsp 0 { mkHdr op d.agent d.tag d.laddr 0 0 with poison := d.poison } d.data (.inbound 0)
      (ch p c).cause = .none →
      ∀ (b n : Nat) (e : Entry), tagged (ch p c) d.tag = some (b, n, e) →
        (∀ q : Snp, portOpen p c .din = true → snoopOf (ch p c) d = some (b, n, e, q) → q.dataDue = true →
          q.crossed = false →
          Completes (.sdata c d) s fun t => Noted c (modCh c (flit 0x31 b) (modEntry c (tileN b) n
            (modSnp d.agent d.laddr fun q => { q with crossed := true }) (modCh c (tookIn .din p.pclk) p))) t) ∧
        ∀ (kind : MemKind) (cmd : Instr), (kind, cmd) ∈ [(MemKind.rd, Instr.memFill c d), (.wrPtl, .memRmw c d),
            (.atom, .memAtomRes c d)] →
          ∀ since, portOpen p c .mrs = true → e.mem = some (kind, since) → e.memAns = none → e.memIn = false →
            Completes cmd s fun t => Noted c (modCh c (flit kind.answer b) (modEntry c (tileN b) n
              (fun e => { e with memIn := true }) (modCh c (tookIn .mrs p.pclk) p))) t

/-- WDATA that a landing place waits for is taken to its tile, or dropped unused where its request was refused (R87, R89). A
packet that matches nothing, and an opcode that its port does not know, is dropped with a protocol-error record of system queue
1, and changes nothing else (R31, R74): on SNI an answer whose home tag is of no open entry, or whose entry has no snoop of the
agent and line that has crossed and is unanswered; on MRS a packet of another kind than the open request of the entry or slot
its tag names, and one whose tag names neither, which also frees the place held for it after a timeout (R282). -/
def Obligations.DataAndErrors : Prop :=
  ∀ (s : State) (c : Ch),
    (∀ d : DataIn,
      let p := passEdges d.gap s
      let took := modCh c (tookIn .din p.pclk) p
      portOpen p c .din = true → (ch p c).cause = .none →
      (∀ w, landingFor (ch p c) d = some w →
        (w.use = .drop → Completes (.wdata c d) s fun t => Noted c (modCh c (dropped w.rid) took) t) ∧
        (w.use ≠ .drop → Completes (.wdata c d) s fun t => OthersKept c p t ∧ BlockKeptButCt p t ∧
          ArraysKept (ch p c) (ch t c) ∧ (ch t c).wexp =
            (ch p c).wexp.map fun v => if v.rid = w.rid then { v with arrived := true } else v)) ∧
      (landingFor (ch p c) d = none → Completes (.wdata c d) s fun t => Noted c took t ∧ Recorded c 1 2 p t) ∧
      (snoopOf (ch p c) d = none → Completes (.sdata c d) s fun t => Noted c took t ∧ Recorded c 1 2 p t)) ∧
    ∀ (r : RspIn),
      let p := passEdges r.gap s
      (ch p c).cause = .none →
      (portOpen p c .sni = true → tagged (ch p c) r.tag = none →
        ∀ cmd ∈ [Instr.rspI c r, .rspS c r, .rspE c r, .rspID c r, .rspSD c r],
        Completes cmd s fun t => Noted c (modCh c (tookIn .sni p.pclk) p) t ∧ Recorded c 1 2 p t) ∧
      (∀ (b n : Nat) (e : Entry), portOpen p c .sni = true → tagged (ch p c) r.tag = some (b, n, e) →
        (∀ q ∈ e.snoops, q.agent = r.agent → q.laddr = r.laddr → q.out = true → q.crossed = true → q.ans.isNone = false) →
        ∀ cmd ∈ [Instr.rspI c r, .rspS c r, .rspE c r, .rspID c r, .rspSD c r],
        Completes cmd s fun t => Noted c (modCh c (tookIn .sni p.pclk) p) t ∧ Recorded c 1 2 p t) ∧
      (∀ (port : InPort) (code : BitVec 6), portOpen p c port = true → inboundOpcode port code = false →
        Completes (.inboundInvalidOpcode c port r code) s fun t =>
          Noted c (modCh c (tookIn port p.pclk) p) t ∧ Recorded c 1 2 p t) ∧
      ∀ (d : DataIn) (kind : MemKind) (cmd : Instr), (kind, cmd) ∈ [(MemKind.rd, Instr.memFill c d), (.wrPtl, .memRmw c d),
          (.atom, .memAtomRes c d)] →
        let p := passEdges d.gap s
        let took := modCh c (tookIn .mrs p.pclk) p
        portOpen p c .mrs = true → (ch p c).cause = .none →
        (∀ b n e, tagged (ch p c) d.tag = some (b, n, e) →
          (e.memIn = true ∨ e.memAns.isSome = true ∨ ∀ since, e.mem ≠ some (kind, since)) →
          Completes cmd s fun t => Noted c took t ∧ Recorded c 1 2 p t) ∧
        (∀ b n v, taggedSlot (ch p c) d.tag = some (b, n, v) → (kind ≠ .rd ∨ v.landed = true) →
          Completes cmd s fun t => Noted c took t ∧ Recorded c 1 2 p t) ∧
        (tagged (ch p c) d.tag = none → taggedSlot (ch p c) d.tag = none → Completes cmd s fun t =>
          Noted c (modCh c (fun k => { k with mrsHeld := k.mrsHeld.filter fun x => x.1 != d.tag }) took) t ∧
            Recorded c 1 2 p t)

/-- What an egress port has held presented crosses it when the partner's ready is high: it leaves its gasket, and the port's
stall bit clears; a verdict that has crossed is awaited no more, nor is data (R26, R34, R36), and acknowledgements that waited
for it come to the gasket of VRS (R186). A port moves its packets once on an edge. A port that has moved nothing on the edges of
the stall threshold gets its stall bit and a record of queue 10, and loses nothing (R34). -/
def Obligations.EgressPorts : Prop :=
  ∀ (s : State) (c : Ch) (port : EgrPort),
    let stalled (k : Channel) : Bool := match port with
      | .vrs => k.stallVrs | .dout => k.stallDout | .sno => k.stallSno | .mrq => false
    (∀ gap : Nat,
      let p := passEdges gap s
      let out := crossing (ch p c) port
      serving p c = true → out ≠ [] →
      ((ch p c).lastOut port ≠ p.pclk + 1 → Completes (.egressCrossing c port gap) s fun t => OthersKept c p t ∧
        stalled (ch t c) = false ∧ (ch t c).lastOut port = p.pclk + 1 ∧
        (∃ acks : List EgrPkt, (∀ x ∈ acks, x.hdr.opcode = Verdict.ack.code) ∧ ((ch p c).biAcks = [] → acks = []) ∧
          ∀ o : EgrPort, (ch t c).gasket o =
            (if o = port then out.foldl (fun l x => l.erase x) ((ch p c).gasket o) else (ch p c).gasket o) ++
              if o = .vrs then acks else []) ∧
        (∀ x ∈ out, ∀ q ∈ (ch t c).openReqs, x.req = some q.rid →
          (port = .vrs → q.awaitV = false) ∧ (port = .dout → q.awaitD = false)) ∧
        (port ≠ .vrs → BlockKeptButCt p t) ∧ ArraysKept (ch p c) (ch t c)) ∧
      ((ch p c).lastOut port = p.pclk + 1 → exec (.egressCrossing c port gap) s = .next (flushAcks c p))) ∧
    (stallDue s c port = true → Completes (.egressStall c port) s fun t => stalled (ch t c) = true ∧
      (ch t c).gasket port = (ch s c).gasket port ∧ Recorded c 10 2 s t ∧ Noted c (modCh c (fun k => match port with
        | .vrs => { k with stallVrs := true } | .dout => { k with stallDout := true }
        | .sno => { k with stallSno := true } | .mrq => k) s) t)

-- ## Engines and arbiters (08)

/-- Dispatch gives a free engine the highest-ranked ready flow, which goes on where it was, or starts at the word its vector
names (R220, R233). The bank arbiter grants a free port to the highest-ranked request: one of a flow or of a maintenance or
reclaim step, which holds it, or of an early fetch, whose one access leaves it free (R232). That an early fetch makes its one
access with its grant, and that a step of maintenance, of the reclaim walk or of a recovery takes the port whole, is the model's
choice (assumptions 47, 81 and 95). A flow that has run its hold limit leaves its engine, and a bank grant used to its limit
ends and its holder asks again, each with its cut-off counted and recorded; the third cut-off of a request's flow aborts it, and
that of another flow stops the engine that ran it and asks for its failover (R235, R236, Table 13-1). A starving requester sets
its class and tile bits (R238). -/
def Obligations.Arbiters : Prop :=
  ∀ (s : State) (c : Ch) (b : TileId),
    (∀ (x : Nat × Entry) (odd : Bool), enginesRun s c = true →
      (∀ o, (engineRun (tile s c b) o).isSome = true → engineUp s c b o = true) →
      leastBy (flowRank s c) (readyFlows s c b) = some x →
      [false, true].find? (fun o => engineUp s c b o && (engineRun (tile s c b) o).isNone) = some odd →
      rowOutcome (ch s c) (rowKey 7 0 (vectorOf x.2 / 8)) = .good →
      Completes (.engineDispatch c b) s fun t => engineRun (tile t c b) odd = some x.1 ∧
        engineRun (tile t c b) (!odd) = engineRun (tile s c b) (!odd) ∧ OthersKept c s t ∧ BlockKeptButCt s t ∧
        ArraysKept (ch s c) (ch t c) ∧
        ∃ e, entry? (tile t c b) x.1 = some e ∧ e.started = true ∧ e.waiting = false ∧ e.runLen = 0 ∧ e.oddRan = odd ∧
          e.resume = if x.2.started then x.2.resume
            else BitVec.ofNat 13 (wordTarget (microword (ch s c) (vectorOf x.2)))) ∧
    (∀ (k : Bank) (q : BankReq), enginesRun s c = true → grantOf (tile s c b) k = none → bankBest s c b k = some q →
      q.who ≠ .scrub → (∀ arr row, q.who ≠ .mend arr row) → Completes (.bankPortGrant c b k) s fun t =>
        grantOf (tile t c b) k = (match q.who with
          | .flow n => some ⟨n, none, 0⟩
          | .fetch _ => none
          | w => if stepWaits (ch s c) w then some ⟨w.holder, none, 0⟩ else none) ∧
        (∀ y ∈ reqsOf (tile t c b) k, y.who ≠ q.who) ∧
        (tile t c b).ents = (tile s c b).ents ∧ OthersKept c s t ∧ BlockKept s t ∧ MemoryKept (ch s c) (ch t c)) ∧
    (∀ (n : Nat) (e : Entry), enginesRun s c = true → entry? (tile s c b) n = some e →
      let cut (t : State) : Prop := Recorded c 3 0 s t ∧ ∃ e', entry? (tile t c b) n = some e' ∧
        e'.cutoffs = e.cutoffs + 1 ∧ e'.aborted = (e.aborted || e.cutoffs == 2) ∧ e'.progress = e.progress
      (e.cutoffs.toNat < 2 ∨ e.cutoffs.toNat = 2 ∧ e.isRequest = true) →
      (∀ odd, engineHeld s c b odd = some n → Completes (.engineHoldCutoff c b odd) s fun t => cut t ∧
        OffEngine t c b n ∧ OthersKept c s t ∧ BlockKeptButCt s t) ∧
      ∀ k, bankHeld s c b k = some n → Completes (.bankHoldCutoff c b k) s fun t => cut t ∧ grantOf (tile t c b) k = none ∧
        (∃ y ∈ reqsOf (tile t c b) k, y.who = .flow n) ∧ OthersKept c s t ∧ BlockKeptButCt s t) ∧
    (∀ (n : Nat) (e : Entry), enginesRun s c = true → (ch s c).simplex = false → entry? (tile s c b) n = some e →
      e.cutoffs = 2 → e.isRequest = false →
      let stopped (odd : Bool) (t : State) : Prop := Recorded c 3 0 s t ∧ engineUp t c b odd = false ∧
        engineRun (tile t c b) odd = none ∧ asked (ch t c) (.failover b odd) = true ∧ OthersKept c s t
      (∀ odd, engineHeld s c b odd = some n → e.oddRan = odd → engineUp s c b odd = true →
        Completes (.engineHoldCutoff c b odd) s (stopped odd)) ∧
      ∀ k, bankHeld s c b k = some n → engineUp s c b e.oddRan = true →
        Completes (.bankHoldCutoff c b k) s (stopped e.oddRan)) ∧
    ∀ (engine : Bool) (cls : Fin 9), starveDue s c b engine cls = true → Completes (.starvationOnset c b engine cls) s
      fun t => Recorded c 3 1 s t ∧ Noted c (modCh c (fun k => { k with
        starveE := k.starveE ||| (1#9 <<< cls.val), starveT := k.starveT ||| (1#16 <<< b.val) })
          (noteStarved c b engine cls s).1) t

/-- A microstep that needs no other unit commits (R217, R222, Table 8-5): MOVE writes its register or context word; BRANCH goes
to TARGET where its condition holds, else on; TRACKER makes the next member of the line's chain head, plans it, serves an anchor
or a waiting request, and goes on; WAIT goes on where its condition is met; WAIT where it is not, and END, give up the engine;
SEND hands the verdict, or the data, to the rings. A step of a recovery's flow is checkpointed (R329). That MOVE's value and
BRANCH's condition come with the command, what each TRACKER operation does, and which step is due when, is the model's choice
(assumption 9). -/
def Obligations.Microsteps : Prop :=
  ∀ (s : State) (c : Ch) (b : TileId) (odd : Bool) (n : Nat) (e : Entry),
    let at_ (cls : Nat) : Prop := AtWord s c b odd cls n e
    let cp (s : State) : State := if e.work == .recovery then biStep c s else s
    let goes (f : Entry → Entry) (t : State) : Prop := Noted c (modEntry c b n f (cp s)) t
    let now (t : State) (e' : Entry) : Prop := entry? (tile t c b) n = some (stepped s.tick e') ∧
      OthersKept c s t ∧ BlockKeptButCt s t ∧ ArraysKept (ch s c) (ch t c)
    (∀ (dst : Fin 16) (v : Word), at_ 0 →
      (∀ h : dst.val < 4, Completes (.move c b odd dst v) s (goes fun e => stepped s.tick (setReg ⟨dst.val, h⟩ v e))) ∧
      (4 ≤ dst.val → Completes (.move c b odd dst v) s fun t =>
        Noted c (modEntry c b n (stepped s.tick) (cp (modTile c b (moveTo n dst v) s))) t)) ∧
    (∀ taken : Bool, at_ 8 → Completes (.branch c b odd taken) s (goes fun e => { stepped s.tick e with
      resume := if taken then BitVec.ofNat 13 (wordTarget (microword (ch s c) e.resume.toNat)) else e.resume + 1 })) ∧
    (at_ 9 → (∀ op : TrkOp, Completes (.tracker c b odd op) s (OthersKept c s)) ∧
      Completes (.tracker c b odd .plan) s (fun t => now t e) ∧
      (nextHead (ch s c) e.laddr = none → Completes (.tracker c b odd .chain) s (goes (stepped s.tick))) ∧
      (∀ m x, nextHead (ch s c) e.laddr = some (m, x) → home e.laddr = b → m ≠ n →
        Completes (.tracker c b odd .chain) s fun t => ∃ y, entry? (tile t c b) m = some y ∧ y.rid = x.rid ∧ y.head = true) ∧
      ((tile s c b).waits = [] → Completes (.tracker c b odd .anchor) s (goes (stepped s.tick))) ∧
      ((ch s c).hoff = [] → (∀ d : TileId, (tile s c d).bgWaits = []) →
        Completes (.tracker c b odd .release) s (goes (stepped s.tick)))) ∧
    (at_ 7 → due s c b n e ≠ .wait → Completes (.wait c b odd) s (goes (stepped s.tick))) ∧
    (at_ 7 → due s c b n e = .wait → Completes (.wait c b odd) s fun t =>
      now t { e with waiting := true } ∧ OffEngine t c b n) ∧
    (at_ 0xA → due s c b n e = .fin → Completes (.endFlow c b odd) s fun t =>
      now t { e with ended := true } ∧ OffEngine t c b n) ∧
    (at_ 6 → e.pool = false → due s c b n e = .verdict → Completes (.send c b odd) s fun t =>
      now t { e with verdict := true } ∧ Leaves t s c b .vrs (· = mkPkt (mkHdr (flowVerdict e).1.code e.agent e.tag e.laddr
        e.inst (flowVerdict e).2) 0 2 (some e.rid))) ∧
    (at_ 6 → e.pool = false → due s c b n e = .data → Completes (.send c b odd) s fun t =>
      now t { e with sentData := true } ∧ Leaves t s c b .dout (fun x => x.hdr.opcode = 0x32 ∧ x.hdr.agent = e.agent ∧
        x.hdr.tag = e.tag ∧ x.hdr.laddr = e.laddr ∧ x.req = some e.rid))

/-- The microsteps that use a bank, a snoop or memory (R157, R223, R224, R232, Table 8-5): DIR_RD without a grant asks for one
and does not commit; with it the flow starts from what the lookup finds; DIR_WR where no way is short writes the final state and
keeps the grant of Table 6-4; LC_ACC places the next line, or reads the line cache; SNOOP sends the first snoop due; MEMREQ
sends its request, and where a fill is to be placed reserves its frame through the line cache's port (R232). An illegal word
stops the engine and asks for its failover (R219). The order of work in which each of them is due is the model's choice
(assumption 9). -/
def Obligations.FlowAccesses : Prop :=
  ∀ (s : State) (c : Ch) (b : TileId) (odd : Bool) (n : Nat) (e : Entry),
    let l := e.laddr
    let dirGood : Prop := (∀ x ∈ dirRows l, rowOutcome (ch s c) (rowKey x.1 b.val x.2) = .good) ∧
      (lookup (ch s c) l).bad = false
    let tagsGood (l : LAddr) : Prop := ∀ copy, copy < 2 → ∀ h, h < 2 →
      rowOutcome (ch s c) (rowKey (3 + copy) b.val (lcSet l * 2 + h)) = .good
    let done (t : State) (P : Entry → Prop) : Prop := Committed t c b n e P ∧ OthersKept c s t
    (AtWord s c b odd 1 n e → grantOf (tile s c b) .sf = none → Completes (.dirRd c b odd) s fun t =>
      entry? (tile t c b) n = some e ∧ (∃ q ∈ reqsOf (tile t c b) .sf, q.who = .flow n) ∧ OthersKept c s t ∧ BlockKept s t ∧
      MemoryKept (ch s c) (ch t c)) ∧
    (AtWord s c b odd 1 n e → Holds s c b .sf n l → dirGood → tagsGood l → underRecovery (ch s c) l = false → e.fetched = false →
      collision (ch s c) l s.pclk = false →
      Completes (.dirRd c b odd) s fun t =>
      done t fun e' => e'.fetched = true ∧ e'.found = (lookup (ch s c) l).dir) ∧
    (∀ way : Fin 16, AtWord s c b odd 2 n e → Holds s c b .sf n l → dirGood → due s c b n e = .dirWr → landingOn s c l = false →
      recoveryAsked (ch s c) l = false → setStamp (tile s c b) l = e.stamp →
      placeFor s c l (flowEnd s c e).2 e.agent way ≠ .full → Completes (.dirWr c b odd way) s fun t =>
        done t fun e' => e'.updated = true ∧ e'.grant = (flowEnd s c e).1) ∧
    (let m := match e.toPlace with | x :: _ => x.1 | [] => l
      AtWord s c b odd 3 n e → Holds s c b .lc n m → tagsGood m → retiring (ch s c) e = false → due s c b n e = .place →
      Completes (.lcAcc c b odd) s fun t => done t fun e' =>
        match e.toPlace with
        | [] => e'.placed = true
        | _ :: r => e'.toPlace = r) ∧
    (∀ v, AtWord s c b odd 3 n e → Holds s c b .lc n l → tagsGood l → due s c b n e = .lcRead →
      (lcRead c (occE b e) l s).2 = some v → Completes (.lcAcc c b odd) s fun t =>
        done t fun e' => e'.rdata = some v ∧ e'.rsrc = 0) ∧
    (∀ q r, AtWord s c b odd 4 n e → due s c b n e = .snoop → todo e = q :: r → sdataFree (ch s c) = true →
      e.work ≠ .eviction → Completes (.snoop c b odd) s fun t =>
        done t (fun e' => e'.snoops = (markSent q.agent q.laddr s.tick e).snoops) ∧
        Leaves t s c b .sno (· = snpPkt (ch s c) b n q e.inst (if e.work = .recovery then .recovery else .flow) 0 2)) ∧
    (let m := match e.absPtl with | x :: _ => x.1 | [] => l
      AtWord s c b odd 5 n e → due s c b n e = .memReq → mrsFree (ch s c) = true → tagsGood m →
      (placesWb s c m = true → lcFind (ch s c) m = none → Holds s c b .lc n m) → Completes (.memreq c b odd) s fun t =>
      ∃ k : MemKind, done t (fun e' => e'.mem = some (k, s.tick) ∧ e'.memIn = false ∧ e'.memAns = none) ∧
        Leaves t s c b .mrq fun x => x.hdr.opcode = k.code ∧ x.hdr.tag = homeTagNow (ch s c) b n) ∧
    (stepReady s c b odd = some (n, e) → e.aborted = false → wordIllegal (microword (ch s c) e.resume.toNat) = true →
      rowOutcome (ch s c) (rowKey 7 0 (e.resume.toNat / 8)) = .good → (ch s c).simplex = false →
      Completes (.illegalMicroword c b odd) s fun t => engineUp t c b odd = false ∧ engineRun (tile t c b) odd = none ∧
        asked (ch t c) (.failover b odd) = true ∧ entry? (tile t c b) n = some e ∧ OthersKept c s t ∧ BlockKept s t)

-- ## Ends and timeouts (07, 10)

/-- An entry whose work is over is released; where requests wait in handoff buffers the freed entry may go to one of them, which
then leaves its buffer (R212). A bound anchor that no request has used for ANCHOR_LAPSE ticks is FREE again, with its record
(R195). Missing WDATA gives up its landing place (R88, R89). A snoop not answered in time kills its agent (R281). A memory
request not answered in time aborts its flow and holds its landing place for four timeouts, after which the place is free; of a
MEM_RD that an early fetch sent, which has no flow, the requester gets RDATA with POISON, and a prefetch installs nothing (R281,
R282, Table 10-4). -/
def Obligations.EndsAndTimeouts : Prop :=
  ∀ (s : State) (c : Ch),
    (∀ (b : TileId) (n : Fin 160) (e : Entry), enginesRun s c = true → entry? (tile s c b) n = some e →
      releasable e = true → Completes (.trackerEntryRelease c b n) s fun t => OthersKept c s t ∧
        ((ch s c).hoff = [] → entry? (tile t c b) n = none) ∧ (∀ w ∈ (ch t c).hoff, ∃ v ∈ (ch s c).hoff, w.rid = v.rid) ∧
        ∀ e', entry? (tile t c b) n = some e' → ∃ w ∈ (ch s c).hoff, e'.rid = w.rid ∧ e'.laddr = w.line ∧
          ∀ v ∈ (ch t c).hoff, v.rid ≠ w.rid) ∧
    (∀ (a : AgentId) (x : Anchor), lapseDue s c a = some x → Completes (.anchorLapse c a) s fun t =>
      Tab.get? (ch t c).anchors a.toNat = none ∧ Recorded c 1 0 s t ∧ OthersKept c s t ∧ BlockKeptButCt s t ∧
      ArraysKept (ch s c) (ch t c)) ∧
    (∀ (a : AgentId) (tag : Tag) (l : LAddr) (w : WExp), missingData s c a tag l = some w →
      Completes (.wdataTimeout c a tag l) s fun t => (∀ v ∈ (ch t c).wexp, v.rid ≠ w.rid) ∧ OthersKept c s t ∧
        (w.use = .drop → Noted c (modCh c (dropped w.rid) (modCh c (landed w.rid) s)) t ∧ Recorded c 1 2 s t)) ∧
    (∀ (h : Tag) (a : AgentId) (l : LAddr) (e : Entry), snoopLate s c h a l = some e →
      Completes (.snoopTimeout c h a l) s fun t => agentLifeB t a ≠ .live ∧ Recorded c 2 3 s t ∧
        (agentLifeB s a = .live → ∀ d : Ch, serving s d = true → agentDead (ch t d) a = true)) ∧
    (∀ (h : Tag) (b n since : Nat) (e : Entry) (k : MemKind), serving s c = true → (ch s c).cause = .none →
      tagged (ch s c) h = some (b, n, e) → e.mem = some (k, since) → e.memAns = none → since + ringTmo s c ≤ s.tick →
      Completes (.memTimeout c h) s fun t => Recorded c 5 2 s t ∧ OthersKept c s t ∧
        (ch t c).mrsHeld = (ch s c).mrsHeld ++ [(h, s.tick + 4 * ringTmo s c)] ∧
        ∃ e', entry? (tile t c (tileN b)) n = some e' ∧ e'.mem = none ∧ e'.aborted = (e.aborted || e.isRequest)) ∧
    (∀ (h : Tag) (b n : Nat) (v : NSlot), serving s c = true → (ch s c).cause = .none →
      taggedSlot (ch s c) h = some (b, n, v) → v.since + ringTmo s c ≤ s.tick → Completes (.memTimeout c h) s fun t =>
        Recorded c 5 2 s t ∧ OthersKept c s t ∧ (ch t c).mrsHeld = (ch s c).mrsHeld ++ [(h, s.tick + 4 * ringTmo s c)] ∧
        Tab.get? (tile t c (tileN b)).slots n = none ∧
        (v.prefetch = false → Leaves t s c (tileN b) .dout fun x =>
          x.hdr = { mkHdr 0x32 v.agent v.tag v.laddr v.inst (rdataSub v.grant 1) with poison := true } ∧ x.req = some v.rid) ∧
        (v.prefetch = true → ∀ x ∈ (tile s c (tileN b)).miss, x.tag = h → (tile t c (tileN b)).miss = none)) ∧
    ∀ h : Tag, serving s c = true → Completes (.mrsReservationEnd c h) s fun t => BlockKept s t ∧ OthersKept c s t ∧
      MemoryKept (ch s c) (ch t c) ∧
      ∀ x, x ∈ (ch t c).mrsHeld ↔ x ∈ (ch s c).mrsHeld ∧ (x.1 = h → s.tick < x.2)

-- ## The rings (10)

/-- A step of a ring that is not retired moves every slot one position on; between the stops a slot keeps its tag, claim and
flit (R270, R275). At a stop that has nothing to inject, a flit is dropped where the stop drops or its CRC fails (R279), leaves
the ring where the stop is its destination, with its packet in the gasket of VRS where it carries one (R269), goes on where it
does not turn, and where it turns waits at the stop of the other ring if that one is retired (the model's choice, assumption
91), and else moves to the other ring into an empty slot that it may use, keeps its slot where that one is full, or after
TURN_PRESS laps goes into the turn register (R270, R271). An empty slot takes what a stop has for it: a re-send, else the turn
register, else the first queue head that the slot's tag admits in the order of R276, or where the stop has claimed the slot the
one that has waited longest (R273, R276), but for re-sends only while the replay buffer has room. Which head a claimed slot
takes is the model's reading (assumption 72); that a flit's laps count from its first pass, and what a commanded RESEND moves,
is its choice (assumptions 82 and 73). RESEND puts every flit sent and not acknowledged back in order, before what waits to be
re-sent; none of them is left on the hop, and the receiving stop takes flits again (R279). A claim marks the slot that passes
(R272). A new slot table begins when slot 0 is at the edge stop (R278). -/
def Obligations.RingSteps : Prop :=
  ∀ (s : State) (c : Ch) (r : Fin 8),
    let x := (ch s c).ring r
    (∀ bad : List Nat, ringRuns s c r = true → Completes (.flitHop c r bad) s fun t => OthersKept c s t ∧
      ((ch t c).ring r).phase = (x.phase + 1) % 16 ∧ ((ch t c).ring r).step = x.step + 1 ∧
      (∀ p : Fin 16, p.val ∉ [0, 4, 7, 10, 13] → ((ch t c).ring r).slot p.val = x.slot (p.val + 15)) ∧
      ∀ i, i < 5 →
        let st := x.stop i
        let q := (x.rotate (decide (4 ≤ r.val))).slot (stopPos i)
        let after := ((ch t c).ring r).slot (stopPos i)
        let full : Bool := replayFull (ch s c) r i
        (∀ f0, st.nothing → q.flit = some f0 →
          let f := if bad.contains (stopPos i) then { f0 with crc := ~~~f0.crc } else f0
          let laps := if f.turned then min 7 (f.laps + 1) else f.laps
          let arrives : Prop := st.dropping = false ∧ f.crc = f.check
          (st.dropping = true → after.flit = none) ∧
          (st.dropping = false → f.crc ≠ f.check → after.flit = none ∧ (((ch t c).ring r).stop i).dropping = true) ∧
          (arrives → f.dest = stopId r i → after.flit = none ∧ ∀ pkt, f.body = .egress .vrs pkt → f.pair = 0 →
            agentDead (ch s c) pkt.hdr.agent = false → ∃ z ∈ (ch t c).vrs, z.hdr = pkt.hdr ∧ z.req = pkt.req) ∧
          (arrives → f.dest ≠ stopId r i → turnTo r i f = none → full = false → Carries after f f.laps) ∧
          ∀ v j, arrives → f.dest ≠ stopId r i → turnTo r i f = some (v, j) →
            let y := (ch s c).ring v
            let z := y.slot (stopPos j)
            (y.retired = true → after.flit = none) ∧
            (y.retired = false → (z.flit = none → mayUse z j = true → tagOpen z.tag f.cls = true → (y.stop j).again = [] → (y.stop j).turn = none →
              replayFull (ch s c) v j = false → ringHeld (ch s c) v = false →
              after.flit = none ∧ Carries (((ch t c).ring v).slot (stopPos j)) f laps) ∧
            (z.flit ≠ none → laps < turnPress s c → full = false → Carries after f laps) ∧
            (z.flit ≠ none → turnPress s c ≤ laps → turnFree (ch s c) (stopId v j) = true → after.flit = none ∧
              ∃ g, (((ch t c).ring v).stop j).turn = some g ∧ g.dest = f.dest ∧ g.body = f.body ∧ g.laps = laps))) ∧
        (q.flit = none → mayUse q i = true → ringHeld (ch s c) r = false →
          (∀ f l, st.again = f :: l → Carries after f f.laps) ∧
          (∀ f, st.again = [] → full = false → st.turn = some f → Carries after f f.laps) ∧
          ∀ f, st.again = [] → full = false → st.turn = none →
            (∀ g ∈ st.rcv.head?, g.cls = .rcv) → (∀ g ∈ st.rsp.head?, g.cls = .rsp) → (∀ g ∈ st.out.head?, g.cls = .out) →
            (∀ g ∈ st.req.head?, g.cls = .req) →
            (if q.claim.isNone then st.heads.find? (fun g => tagOpen q.tag g.cls)
              else leastBy (·.born) (st.heads.filter fun g => tagOpen q.tag g.cls)) = some f → Carries after f f.laps)) ∧
    (∀ i : Nat, resendDue s c r i = true → Completes (.resend c r i) s fun t => OthersKept c s t ∧ BlockKeptButCt s t ∧
      (((ch t c).ring r).stop i).again = (x.stop i).sent.map (·.1) ++ (x.stop i).again ∧
      (((ch t c).ring r).stop i).sent = [] ∧ (∀ p ∈ hopPlaces i, (((ch t c).ring r).slot p).flit = none) ∧
      (((ch t c).ring r).stop ((i + 1) % 5)).dropping = false) ∧
    (∀ i : Nat, claimDue s c r i = true → Completes (.injectionClaim c r i) s fun t => OthersKept c s t ∧ BlockKept s t ∧
      MemoryKept (ch s c) (ch t c) ∧ (((ch t c).ring r).stop i).claim = true ∧
      ((ch t c).ring r).slot (stopPos i) = { x.slot (stopPos i) with claim := some i }) ∧
    (frameDue s c r = true → Completes (.slotFrameStart c r) s fun t => OthersKept c s t ∧ BlockKept s t ∧
      MemoryKept (ch s c) (ch t c) ∧ ((ch t c).ring r).table = ringTable s c r ∧ ((ch t c).ring r).pend = none ∧
      (((ch t c).ring r).slot 0).flit = (x.slot 0).flit ∧
      ∀ o : Fin 8, o ≠ r → (ch t c).ring o = (ch s c).ring o)

-- ## Clocks, partners, integrity (02, 04, 12)

/-- PCLK edges are counted, and change nothing but counters, the timers of snoops that fall due, what the egress ports hold
presented, and the directory where a clear-sky update falls due (R27, R105, R281). A REFCLK tick ends with the responses that
the host has taken since the last one gone (R40); that BAROMETER_TICK carries their number is the model's choice (assumptions 60
and 18). It takes the readings of every powered channel: the lowest of them, the threshold, and the stretch decision (R5, R114 to
R117). The measured frequency is taken at the end of a window of 64 ticks (R115), and HA_ALIVE toggles every 32 (R57). -/
def Obligations.Clocks : Prop :=
  (∀ (n : Nat) (s : State), (passEdges n s).pclk = s.pclk + n ∧
    { passEdges n s with pclk := s.pclk, ct := s.ct, chans := s.chans } = s ∧
    (∀ c : Ch, (ch (passEdges n s) c).openReqs = (ch s c).openReqs ∧
      (∀ o : EgrPort, (ch (passEdges n s) c).gasket o = (ch s c).gasket o) ∧
      (0 < n → (ch (passEdges n s) c).landings = (ch s c).landings.filter (fun d => decide (s.pclk + n < d.edge))) ∧
      ((∀ d ∈ (ch s c).landings, s.pclk + n < d.edge) → ArraysKept (ch s c) (ch (passEdges n s) c))) ∧
    ∀ c : Ch, (∀ d ∈ (ch s c).landings, s.pclk + 1 < d.edge) → ∃ a b : Bool, Uncounted { edgeChan (s.pclk + 1) s.tick (ch s c) with wasLowA := a, wasLowB := b }
      (ch (passEdges 1 s) c)) ∧
  (∀ (s : State) (gap : TickIn) (rs : List (List (BitVec 12))), s.coldN = true → Completes (.barometerTick gap rs) s fun t =>
    let due := passEdges gap.edges { s with rspQ := s.rspQ.drop gap.taken }
    t.tick = s.tick + 1 ∧ t.pclk = s.pclk + gap.edges ∧ t.rspQ = s.rspQ.drop gap.taken ∧ t.ripe = ripened due ∧
      ∀ c : Ch, powered (ch s c) = true →
      let m := lowest (readingsOf rs c)
      let on := threshOf (ch s c).mhz.toNat
      (ch t c).minNow = BitVec.ofNat 12 m ∧ (ch t c).thresh = BitVec.ofNat 12 on ∧
      (((ch s c).pclkValid = false ∨ on ≠ 0 ∧ m < on) → (ch t c).decision = true) ∧
      ((ch s c).pclkValid = true → on = 0 → (ch t c).decision = false)) ∧
  ∀ (s : State) (c : Ch),
    (windowDue s c = true → Completes (.pclkWindowEnd c) s fun t =>
      (ch t c).mhz = BitVec.ofNat 12 ((s.pclk - (ch s c).winCount) * 25 / 16) ∧ (ch t c).winStart = s.tick ∧
      (ch t c).winCount = s.pclk ∧ OthersKept c s t) ∧
    (serving s c = true → (ch s c).aliveTick + 32 ≤ s.tick →
      exec (.aliveToggle c) s = .next (modCh c (fun k => { k with alive := !k.alive, aliveTick := s.tick }) s))

/-- A transition of an alive pin restarts its grace timer, and where no loss is due clears the partner's lost bit; a partner whose
timer runs out is lost: a lost adapter's agents die, a lost memory controller fences its channel (R58, R65, R66). -/
def Obligations.Partners : Prop :=
  (∀ (s : State) (k : Fin 128),
    (Completes (.adAliveTransition k) s fun t => t.adLevel = s.adLevel ^^^ (1#128 <<< k.val) ∧
      Tab.get? t.adSince k = some s.tick ∧
      (adLate s k = false → t.chans = s.chans ∧ (adEnabled s k = true → t.adLost.getLsbD k = false))) ∧
    (adLate s k = true → Completes (.adapterLost k) s fun t => t.adLost.getLsbD k = true ∧
      ∀ a ∈ adapterAgents s k, agentLifeB t a ≠ .live)) ∧
  ∀ (s : State) (c : Ch),
    (Completes (.mcAliveTransition c) s fun t => t.mcLevel = s.mcLevel ^^^ (1#16 <<< c.val) ∧
      Tab.get? t.mcSince c = some s.tick ∧
      (mcLate s c = false → t.chans = s.chans ∧ (mcWatched s c = true → t.mcLost.getLsbD c = false))) ∧
    (mcLate s c = true → Completes (.mcLost c) s fun t => t.mcLost.getLsbD c = true ∧ (ch t c).mrq = [] ∧
      OthersKept c s t ∧ ((ch s c).cause = .none → (ch t c).fence = true ∧ (ch t c).cause = .mcLost))

/-- A rain gauge above 0 leaks when its interval has passed (R321), a way's failure count decays likewise (R256), and before
that they stay. A scrubber whose interval has passed goes on to its next block; a tile's asks for a bank port, which a free port
without other requests grants it at once, and waits for a port that is held (R319, R232). The interval and the bank of journal and
context rows are the model's choice (assumptions 69 and 17). -/
def Obligations.IntegrityIntervals : Prop :=
  (∀ (s : State) (c : Ch) (g : Fin 8),
    (leakDue s c g = true → Completes (.gaugeLeak c g) s fun t =>
      (∀ h : g.val < 7, (ch t c).gauges[g.val] = (ch s c).gauges[g.val] - 1 ∧ (ch t c).leakAt[g.val] = s.tick ∧
        BlockKept s t ∧ OthersKept c s t ∧ MemoryKept (ch s c) (ch t c)) ∧
      (g.val = 7 → t = { s with jrnGauge := s.jrnGauge - 1, jrnLeakAt := s.tick })) ∧
    (leakDue s c g = false → exec (.gaugeLeak c g) s = .next s)) ∧
  (∀ (s : State) (c : Ch) (b : TileId) (w : Fin 16),
    (decayDue s c b w = true → Completes (.wayCountDecay c b w) s fun t =>
      Tab.getD (tile t c b).fails w 0 = Tab.getD (tile s c b).fails w 0 - 1 ∧ Tab.getD (tile t c b).decayAt w 0 = s.tick ∧
      BlockKept s t ∧ OthersKept c s t ∧ MemoryKept (ch s c) (ch t c)) ∧
    (decayDue s c b w = false → exec (.wayCountDecay c b w) s = .next s)) ∧
  ∀ (s : State),
    (∀ (c : Ch) (b : TileId), scrubs s c = true → scrubDue s c b = true →
      let k := scrubBank (scrubRow (tile s c b).scrubPos).1
      Completes (.scrubStep (.tile c b)) s fun t => OthersKept c s t ∧
        (grantOf (tile s c b) k = none → reqsOf (tile s c b) k = [] →
          (tile t c b).scrubPos = ((tile s c b).scrubPos + 1) % 13968) ∧
        ((grantOf (tile s c b) k).isSome = true → (tile t c b).scrubPos = (tile s c b).scrubPos ∧
          grantOf (tile t c b) k = grantOf (tile s c b) k ∧ ∃ q ∈ reqsOf (tile t c b) k, q.who = .scrub)) ∧
    (∀ c : Ch, scrubs s c = true → (ch s c).scrubQAt + scrubInterval s c ≤ s.tick →
      Completes (.scrubStep (.chan c)) s fun t =>
        (ch t c).scrubQ = ((ch s c).scrubQ + 1) % 10240 ∧ OthersKept c s t) ∧
    (running s = true → s.jrnScrubAt + jrnInterval ≤ s.tick →
      Completes (.scrubStep .journal) s fun t => t.jrnScrub = (s.jrnScrub + 1) % 32768)

-- ## Recovery (13)

/-- The stewards' actions (chapter 13). An engine that fails a check, or commits nothing for ENG_WATCH ticks with its inputs
present, stops (R332); failover gives its tile to the sibling, or fences the channel where there is none (R334); a shadow
rebuild rewrites the row of the array from the shadow, or that of the shadow from the array, and fences where both are lost
(R333), and is asked for where a shadow row is found lost (that the command says that a row's check fails, or that it is lost,
is the model's choice, assumption 84); a broken ring is retired, a second of its kind fences (R335); an action that runs for
WATCHDOG ticks without a checkpoint fences, the background part of a broadcast too (R331). A disagreement of the stewards'
outputs rolls the step back; a second one makes each test itself, and a steward that fails its test leaves the other to go on
alone; a third, or two failed tests, fence the channel (R329, R330). -/
def Obligations.RecoveryActions : Prop :=
  (∀ (s : State) (c : Ch),
    (∀ (b : TileId) (x : EngineCheck),
      (x.check = true ∧ (stepReady s c b x.odd).isSome = true ∨ watchDue s c b x.odd = true) →
      Completes (.engineWatchdog c b x) s fun t =>
        engineUp t c b x.odd = false ∧ engineRun (tile t c b) x.odd = none ∧ OthersKept c s t) ∧
    (∀ (b : TileId) (odd : Bool), runningAction s c = some (.failover b odd) →
      Completes (.engineFailover c b odd) s fun t => engineUp t c b odd = false ∧ OthersKept c s t ∧
        (if odd then (tile t c b).fail1 else (tile t c b).fail0) = true ∧
        (if odd then (tile t c b).fault1 else (tile t c b).fault0) = false ∧
        (engineUp s c b (!odd) = true → (ch t c).cause = .none ∧ Recorded c 8 2 s t) ∧
        (engineUp s c b (!odd) = false → (ch t c).cause = .engines ∧ (ch t c).fence = true) ∧
        ((ch s c).queueOf = [] → (ch t c).action = none)) ∧
    (∀ (b : TileId) (ctx : Bool) (x : ShadowRow), runningAction s c = some (.rebuild b ctx x.row) →
      let lost : Bool := x.lost || shadowLost (tile s c b) ctx x.row
      let arr : Nat := if ctx then 6 else 5
      Completes (.shadowRebuild c b ctx x) s fun t => OthersKept c s t ∧
        ((ch s c).queueOf = [] → (ch t c).action = none) ∧
        (lost = false → BlockKeptButCt s t ∧ overOutcome (tile t c b) b arr x.row = .good) ∧
        (lost = true → overOutcome (tile s c b) b arr x.row = .bad → (ch t c).cause = .tracker ∧ (ch t c).fence = true) ∧
        (lost = true → overOutcome (tile s c b) b arr x.row ≠ .bad → BlockKeptButCt s t ∧
          (tile t c b).overlay = (tile s c b).overlay ∧
          ∀ y, y ∈ (tile t c b).shadowBad ↔ y ∈ (tile s c b).shadowBad ∧ y ≠ (ctx, x.row))) ∧
    (∀ (b : TileId) (ctx : Bool) (x : ShadowRow), enginesRun s c = true → (ch s c).simplex = false → x.lost = true →
      (ch s c).action ≠ some (.rebuild b ctx x.row) → Completes (.shadowRebuild c b ctx x) s fun t =>
        OthersKept c s t ∧ BlockKept s t ∧ asked (ch t c) (.rebuild b ctx x.row) = true ∧
        shadowLost (tile t c b) ctx x.row = true) ∧
    (∀ r : Fin 8, runningAction s c = some (.ringRetire r) → Completes (.ringRetirement c r) s fun t => OthersKept c s t ∧
      if (if r.val < 4 then (ch s c).xret != 0 else (ch s c).yret != 0) = true then (ch t c).cause = .ring
      else ((ch t c).ring r).retired = true ∧ (ch t c).cause = .none ∧ Recorded c 8 3 s t) ∧
    (recoveryLate s c = true → Completes (.recoveryWatchdog c) s fun t =>
      (ch t c).cause = .watchdog ∧ (ch t c).fence = true ∧ OthersKept c s t)) ∧
  (∀ (s : State) (c : Ch) (run : StewardRun), enginesRun s c = true → (ch s c).simplex = false →
    recovering (ch s c) = true →
    let rolled (t : State) : Prop :=
      (ch t c).action = (ch s c).action.bind (fun _ => (ch s c).ckpt[0]) ∧ (ch t c).cause = .none
    Completes (.stewardRollback c run) s fun t => OthersKept c s t ∧
      ((ch s c).disagreed = 2 → (ch t c).cause = .steward) ∧
      ((ch s c).disagreed ≠ 2 → run.agree = true → rolled t ∧ (ch t c).disagreed = 0) ∧
      ((ch s c).disagreed ≠ 2 → run.agree = false →
        (run.pass0 = true → run.pass1 = true → rolled t ∧ (ch t c).disagreed = 2) ∧
        (run.pass0 = false → run.pass1 = false → (ch t c).cause = .steward) ∧
        (run.pass0 ≠ run.pass1 → rolled t ∧ (ch t c).simplex = true ∧ (ch t c).stewardOff = run.pass0 ∧
          Recorded c 8 3 s t)))

/-- Broadcast invalidation takes the snoop filter's port (R232), and rewrites the block, of four slots or of eight extension
words, with zeros, so that every slot it held is invalid; with no pair to snoop it ends at once, else a background entry holds
the pairs' snoops (R336, R337). A reclaim step takes the snoop filter's port, and asks for it where it has it not (R231, R232;
one grant serves one step, the model's reading, assumption 95); a walk goes on to the next set where nothing of the set records
its agents, and waits for a line that is held (R342). -/
def Obligations.LostLines : Prop :=
  ∀ (s : State) (c : Ch) (b : TileId),
    (∀ (ext : Bool) (row : Nat), runningAction s c = some (.broadcast b ext row) →
      (landingIn s c b = true → exec (.broadcastInvalidation c b ext row) s = .next s) ∧
      (landingIn s c b = false → stepGranted s c b .sf .recovery = false → Completes (.broadcastInvalidation c b ext row) s fun t =>
        (∃ q ∈ reqsOf (tile t c b) .sf, q.who = .recovery) ∧ (tile t c b).ents = (tile s c b).ents ∧ BlockKept s t ∧
        OthersKept c s t ∧ MemoryKept (ch s c) (ch t c))) ∧
    (∀ (ext : Bool) (row : Nat), row < (if ext then 256 else 8192) → runningAction s c = some (.broadcast b ext row) →
      landingIn s c b = false → stepGranted s c b .sf .recovery = true →
      let arr : Nat := if ext then 1 else 0
      let blank (t : State) : Prop := rowOutcome (ch t c) (rowKey arr b row) = .good ∧
        ∀ w, w < 8 → memWord (ch t c) arr b row w = 0
      (recoveryPairs (ch s c) c b ext row = [] → Completes (.broadcastInvalidation c b ext row) s fun t => blank t ∧
        biRuns (tile t c b) ext row = false ∧ Recorded c 8 2 s t ∧ OthersKept c s t) ∧
      ∀ p r, recoveryPairs (ch s c) c b ext row = p :: r →
        (bgFree s c b (.recovery, p.1) = true ∨ evictTaken (tile s c b) < evictMax s c) →
        (freeEntry (tile s c b)).isSome = true → Completes (.broadcastInvalidation c b ext row) s fun t => blank t ∧
          biRuns (tile t c b) ext row = true ∧ OthersKept c s t ∧ ∃ n e, entry? (tile t c b) n = some e ∧
            e.work = .recovery ∧ e.snoops.map (fun q => (q.laddr, q.agent)) = (p :: r).map fun x => (x.1, x.2.1)) ∧
    (enginesRun s c = true → (walkers (ch s c) b).isEmpty = false → landingIn s c b = false → stepGranted s c b .sf .reclaim = false →
      Completes (.reclaimStep c b) s fun t => (∃ q ∈ reqsOf (tile t c b) .sf, q.who = .reclaim) ∧
        (ch t c).walkPos = (ch s c).walkPos ∧ (tile t c b).ents = (tile s c b).ents ∧ BlockKept s t ∧ OthersKept c s t ∧
        MemoryKept (ch s c) (ch t c)) ∧
    (enginesRun s c = true → (walkers (ch s c) b).isEmpty = false → landingIn s c b = false → stepGranted s c b .sf .reclaim = true →
      let set := (ch s c).walkPos[b]
      (∀ x ∈ setRows set, rowOutcome (ch s c) (rowKey x.1 b x.2) = .good) →
      (reclaimTarget (ch s c) c b set (walkers (ch s c) b) = none → Completes (.reclaimStep c b) s fun t =>
        (ch t c).walkPos[b] = (set + 1) % 2048 ∧ ∀ o : TileId, o ≠ b → (ch t c).walkPos[o] = (ch s c).walkPos[o]) ∧
      ∀ x, reclaimTarget (ch s c) c b set (walkers (ch s c) b) = some x → openLine (ch s c) x.2.2 = true →
        exec (.reclaimStep c b) s = .next (useGrant c b .sf .reclaim s))
end

