-- ==== Sys2Proof/Laws/Table.lean ====
section
/-! SUPPORT. The laws of sparse tables: reading after writing and removing, and the canonical form that every change keeps. -/

namespace Sys2Proof.Machine

variable {α : Type}

@[simp] theorem Tab.get?_nil (k : Nat) : Tab.get? ([] : Tab α) k = none := rfl

@[simp] theorem Tab.get?_put_self (t : Tab α) (k : Nat) (v : α) : Tab.get? (Tab.put t k v) k = some v := by
  induction t with
  | nil => simp [Tab.put, Tab.get?]
  | cons e r ih =>
    obtain ⟨j, w⟩ := e
    simp only [Tab.put]
    split
    · simp [Tab.get?]
    · split
      · simp [Tab.get?]
      · rename_i h; simp [Tab.get?, h, ih]

theorem Tab.get?_put_ne (t : Tab α) {k j : Nat} (v : α) (h : j ≠ k) : Tab.get? (Tab.put t k v) j = Tab.get? t j := by
  induction t with
  | nil => simp [Tab.put, Tab.get?, h.symm]
  | cons e r ih =>
    obtain ⟨i, w⟩ := e
    simp only [Tab.put]
    split
    · simp [Tab.get?, h.symm]
    · split
      · rename_i hi; subst hi; simp [Tab.get?, h.symm]
      · simp [Tab.get?, ih]

theorem Tab.get?_put (t : Tab α) (k j : Nat) (v : α) :
    Tab.get? (Tab.put t k v) j = if j = k then some v else Tab.get? t j := by
  split
  · rename_i h; subst h; simp
  · rename_i h; exact Tab.get?_put_ne t v h

/-- A second write under the same key replaces the first. -/
@[simp] theorem Tab.put_put (t : Tab α) (k : Nat) (v w : α) : Tab.put (Tab.put t k v) k w = Tab.put t k w := by
  induction t with
  | nil => simp [Tab.put]
  | cons e r ih =>
    obtain ⟨j, x⟩ := e
    by_cases h : k < j
    · simp [Tab.put, h]
    · by_cases h2 : j = k
      · simp [Tab.put, h2]
      · simp [Tab.put, h, h2, ih]

@[simp] theorem Tab.get?_drop_self (t : Tab α) (k : Nat) : Tab.get? (Tab.drop t k) k = none := by
  induction t with
  | nil => rfl
  | cons e r ih =>
    obtain ⟨j, w⟩ := e
    simp only [Tab.drop]
    split
    · exact ih
    · rename_i h; simp [Tab.get?, h, ih]

theorem Tab.get?_drop_ne (t : Tab α) {k j : Nat} (h : j ≠ k) : Tab.get? (Tab.drop t k) j = Tab.get? t j := by
  induction t with
  | nil => rfl
  | cons e r ih =>
    obtain ⟨i, w⟩ := e
    simp only [Tab.drop]
    split
    · rename_i hi; subst hi; simp [Tab.get?, h.symm, ih]
    · simp [Tab.get?, ih]

@[simp] theorem Tab.getD_put_self (t : Tab α) (k : Nat) (v d : α) : Tab.getD (Tab.put t k v) k d = v := by
  simp [Tab.getD]

theorem Tab.getD_put_ne (t : Tab α) {k j : Nat} (v d : α) (h : j ≠ k) : Tab.getD (Tab.put t k v) j d = Tab.getD t j d := by
  simp [Tab.getD, Tab.get?_put_ne t v h]

@[simp] theorem Tab.word_putWord_self (t : Tab Word) (k : Nat) (v : Word) : Tab.word (Tab.putWord t k v) k = v := by
  unfold Tab.word Tab.putWord Tab.getD
  split
  · rename_i h; simp [h]
  · simp

theorem Tab.word_putWord_ne (t : Tab Word) {k j : Nat} (v : Word) (h : j ≠ k) :
    Tab.word (Tab.putWord t k v) j = Tab.word t j := by
  unfold Tab.word Tab.putWord Tab.getD
  split
  · rw [Tab.get?_drop_ne t h]
  · rw [Tab.get?_put_ne t v h]

theorem Tab.word_drop_ne (t : Tab Word) {k j : Nat} (h : j ≠ k) : Tab.word (Tab.drop t k) j = Tab.word t j := by
  simp [Tab.word, Tab.getD, Tab.get?_drop_ne t h]

/-- Of an entry of a filtered table: the filter kept it. -/
theorem Tab.get?_filter (t : Tab α) (p : Nat → Bool) (k : Nat) :
    Tab.get? (t.filter fun e => p e.1) k = if p k then Tab.get? t k else none := by
  induction t with
  | nil => simp
  | cons e r ih =>
    obtain ⟨j, w⟩ := e
    by_cases hj : p j = true
    · simp only [List.filter_cons, hj, if_true, Tab.get?]
      by_cases h : j = k
      · subst h; simp [hj]
      · simp [h, ih]
    · simp only [List.filter_cons, hj, Tab.get?]
      by_cases h : j = k
      · subst h; simp [hj, ih]
      · simp [h, ih]

-- ## Keys rise

/-- Rising keys as an ordered list. -/
theorem Tab.rising_iff (t : Tab α) : Tab.rising t = true ↔ t.Pairwise (fun x y => x.1 < y.1) := by
  induction t with
  | nil => simp [Tab.rising]
  | cons e r ih =>
    obtain ⟨j, v⟩ := e
    cases r with
    | nil => simp [Tab.rising]
    | cons f r =>
      obtain ⟨k, w⟩ := f
      simp only [Tab.rising, Bool.and_eq_true, decide_eq_true_eq, ih, List.pairwise_cons, List.mem_cons]
      constructor
      · rintro ⟨h, h1, h2⟩
        refine ⟨?_, h1, h2⟩
        rintro x (rfl | hx)
        · exact h
        · exact Nat.lt_trans h (h1 x hx)
      · rintro ⟨h, h1, h2⟩
        exact ⟨h _ (.inl rfl), h1, h2⟩

theorem Tab.mem_put {t : Tab α} {k : Nat} {v : α} {e : Nat × α} (h : e ∈ Tab.put t k v) : e = (k, v) ∨ e ∈ t := by
  induction t with
  | nil => simpa [Tab.put] using h
  | cons f r ih =>
    obtain ⟨j, w⟩ := f
    simp only [Tab.put] at h
    split at h
    · simpa using h
    · split at h
      · rcases List.mem_cons.1 h with h | h
        · exact .inl h
        · exact .inr (List.mem_cons_of_mem _ h)
      · rcases List.mem_cons.1 h with h | h
        · exact .inr (by simp [h])
        · rcases ih h with h | h
          · exact .inl h
          · exact .inr (List.mem_cons_of_mem _ h)

theorem Tab.rising_put {t : Tab α} (k : Nat) (v : α) (h : Tab.rising t = true) : Tab.rising (Tab.put t k v) = true := by
  rw [Tab.rising_iff] at *
  induction t with
  | nil => simp [Tab.put]
  | cons f r ih =>
    obtain ⟨j, w⟩ := f
    rw [List.pairwise_cons] at h
    simp only [Tab.put]
    split
    · rename_i hk
      refine List.pairwise_cons.2 ⟨?_, List.pairwise_cons.2 h⟩
      intro x hx
      rcases List.mem_cons.1 hx with rfl | hx
      · exact hk
      · exact Nat.lt_trans hk (h.1 x hx)
    · split
      · rename_i hj
        subst hj
        exact List.pairwise_cons.2 h
      · rename_i h1 h2
        refine List.pairwise_cons.2 ⟨?_, ih h.2⟩
        intro x hx
        rcases Tab.mem_put hx with rfl | hx
        · simp only; omega
        · exact h.1 x hx

theorem Tab.drop_sublist (t : Tab α) (k : Nat) : (Tab.drop t k).Sublist t := by
  induction t with
  | nil => exact .slnil
  | cons e r ih =>
    obtain ⟨j, w⟩ := e
    simp only [Tab.drop]
    split
    · exact ih.cons _
    · exact ih.cons_cons _

theorem Tab.rising_sublist {t u : Tab α} (h : t.Sublist u) (hu : Tab.rising u = true) : Tab.rising t = true := by
  rw [Tab.rising_iff] at *
  exact hu.sublist h

-- ## The canonical form of word tables

theorem Tab.wf_sublist {t u : Tab Word} (h : t.Sublist u) (hu : Tab.wf u = true) : Tab.wf t = true := by
  simp only [Tab.wf, Bool.and_eq_true, List.all_eq_true] at *
  exact ⟨Tab.rising_sublist h hu.1, fun x hx => hu.2 x (h.subset hx)⟩

@[simp] theorem Tab.wf_nil : Tab.wf [] = true := rfl

/-- Writing a word keeps the canonical form. -/
theorem Tab.wf_putWord {t : Tab Word} (k : Nat) (v : Word) (h : Tab.wf t = true) : Tab.wf (Tab.putWord t k v) = true := by
  unfold Tab.putWord
  split
  · exact Tab.wf_sublist (Tab.drop_sublist t k) h
  · rename_i hv
    simp only [Tab.wf, Bool.and_eq_true, List.all_eq_true] at *
    refine ⟨Tab.rising_put k v h.1, fun x hx => ?_⟩
    rcases Tab.mem_put hx with rfl | hx
    · simpa using hv
    · exact h.2 x hx

theorem Tab.wf_drop {t : Tab Word} (k : Nat) (h : Tab.wf t = true) : Tab.wf (Tab.drop t k) = true :=
  Tab.wf_sublist (Tab.drop_sublist t k) h

theorem Tab.wf_filter {t : Tab Word} (p : Nat × Word → Bool) (h : Tab.wf t = true) : Tab.wf (t.filter p) = true :=
  Tab.wf_sublist List.filter_sublist h

/-- A sequence of writes keeps the canonical form. -/
theorem Tab.wf_foldl {β : Type} (f : Tab Word → β → Tab Word) (hf : ∀ t b, Tab.wf t = true → Tab.wf (f t b) = true)
    (l : List β) {t : Tab Word} (h : Tab.wf t = true) : Tab.wf (l.foldl f t) = true := by
  induction l generalizing t with
  | nil => exact h
  | cons b r ih => exact ih (hf t b h)

end Sys2Proof.Machine
end

