-- ==== Sys2Proof/Laws/State.lean ====
section
/-! SUPPORT. What the plain updates of the state leave: reading a channel or a tile after changing one, and one lemma per field
of State for each of the updates every meaning is built from. -/

namespace Sys2Proof.Machine

variable (s : State) (c : Ch) (t : TileId)

-- ## Channels and tiles

@[simp] theorem ch_modCh_self (f : Channel → Channel) : ch (modCh c f s) c = f (ch s c) := by
  simp [ch, modCh]

theorem ch_modCh_ne (f : Channel → Channel) {d : Ch} (h : d ≠ c) : ch (modCh c f s) d = ch s d := by
  simp [ch, modCh, Vector.getElem_set_ne, Fin.val_ne_of_ne h.symm]

theorem ch_modCh (f : Channel → Channel) (d : Ch) : ch (modCh c f s) d = if d = c then f (ch s c) else ch s d := by
  split
  · rename_i h; subst h; simp
  · rename_i h; exact ch_modCh_ne s c f h

@[simp] theorem modCh_modCh (f g : Channel → Channel) : modCh c g (modCh c f s) = modCh c (fun k => g (f k)) s := by
  simp [modCh]

@[simp] theorem tile_modTile_self (f : Tile → Tile) : tile (modTile c t f s) c t = f (tile s c t) := by
  simp [tile, modTile]

theorem tile_modTile_ne (f : Tile → Tile) {u : TileId} (h : u ≠ t) : tile (modTile c t f s) c u = tile s c u := by
  simp [tile, modTile, Vector.getElem_set_ne, Fin.val_ne_of_ne h.symm]

theorem ch_modTile_ne (f : Tile → Tile) {d : Ch} (h : d ≠ c) : ch (modTile c t f s) d = ch s d := ch_modCh_ne s c _ h

@[simp] theorem forEach_nil {α : Type} (f : α → State → State) : forEach [] f s = s := rfl
@[simp] theorem forEach_cons {α : Type} (a : α) (l : List α) (f : α → State → State) :
    forEach (a :: l) f s = forEach l f (f a s) := rfl

/-- What every step of a sequence keeps, the sequence keeps. -/
theorem forEach_keeps {α : Type} {P : State → Prop} {f : α → State → State} (l : List α)
    (hf : ∀ a ∈ l, ∀ u, P u → P (f a u)) {u : State} (h : P u) : P (forEach l f u) := by
  induction l generalizing u with
  | nil => exact h
  | cons a r ih => exact ih (fun b hb => hf b (.tail _ hb)) (hf a (.head _) _ h)

-- ## The fields a change of a channel leaves

@[simp] theorem modCh_pending (f : Channel → Channel) : (modCh c f s).pending = s.pending := rfl
@[simp] theorem modCh_tick (f : Channel → Channel) : (modCh c f s).tick = s.tick := rfl
@[simp] theorem modCh_ripe (f : Channel → Channel) : (modCh c f s).ripe = s.ripe := rfl
@[simp] theorem modCh_pclk (f : Channel → Channel) : (modCh c f s).pclk = s.pclk := rfl
@[simp] theorem modCh_coldN (f : Channel → Channel) : (modCh c f s).coldN = s.coldN := rfl
@[simp] theorem modCh_warmN (f : Channel → Channel) : (modCh c f s).warmN = s.warmN := rfl
@[simp] theorem modCh_adLevel (f : Channel → Channel) : (modCh c f s).adLevel = s.adLevel := rfl
@[simp] theorem modCh_mcLevel (f : Channel → Channel) : (modCh c f s).mcLevel = s.mcLevel := rfl
@[simp] theorem modCh_adSince (f : Channel → Channel) : (modCh c f s).adSince = s.adSince := rfl
@[simp] theorem modCh_mcSince (f : Channel → Channel) : (modCh c f s).mcSince = s.mcSince := rfl
@[simp] theorem modCh_adLost (f : Channel → Channel) : (modCh c f s).adLost = s.adLost := rfl
@[simp] theorem modCh_mcLost (f : Channel → Channel) : (modCh c f s).mcLost = s.mcLost := rfl
@[simp] theorem modCh_rspQ (f : Channel → Channel) : (modCh c f s).rspQ = s.rspQ := rfl
@[simp] theorem modCh_app (f : Channel → Channel) : (modCh c f s).app = s.app := rfl
@[simp] theorem modCh_stg (f : Channel → Channel) : (modCh c f s).stg = s.stg := rfl
@[simp] theorem modCh_ct (f : Channel → Channel) : (modCh c f s).ct = s.ct := rfl
@[simp] theorem modCh_held (f : Channel → Channel) : (modCh c f s).held = s.held := rfl
@[simp] theorem modCh_wo (f : Channel → Channel) : (modCh c f s).wo = s.wo := rfl
@[simp] theorem modCh_cmSeq (f : Channel → Channel) : (modCh c f s).cmSeq = s.cmSeq := rfl
@[simp] theorem modCh_snap (f : Channel → Channel) : (modCh c f s).snap = s.snap := rfl
@[simp] theorem modCh_jrn (f : Channel → Channel) : (modCh c f s).jrn = s.jrn := rfl
@[simp] theorem modCh_jrnBad (f : Channel → Channel) : (modCh c f s).jrnBad = s.jrnBad := rfl
@[simp] theorem modCh_jrnNext (f : Channel → Channel) : (modCh c f s).jrnNext = s.jrnNext := rfl
@[simp] theorem modCh_jrnOpen (f : Channel → Channel) : (modCh c f s).jrnOpen = s.jrnOpen := rfl
@[simp] theorem modCh_windows (f : Channel → Channel) : (modCh c f s).windows = s.windows := rfl
@[simp] theorem modCh_jrnGauge (f : Channel → Channel) : (modCh c f s).jrnGauge = s.jrnGauge := rfl
@[simp] theorem modCh_jrnScrub (f : Channel → Channel) : (modCh c f s).jrnScrub = s.jrnScrub := rfl
@[simp] theorem modCh_jrnLeakAt (f : Channel → Channel) : (modCh c f s).jrnLeakAt = s.jrnLeakAt := rfl
@[simp] theorem modCh_jrnScrubAt (f : Channel → Channel) : (modCh c f s).jrnScrubAt = s.jrnScrubAt := rfl
@[simp] theorem modCh_strobe (f : Channel → Channel) : (modCh c f s).strobe = s.strobe := rfl
@[simp] theorem modCh_updApplied (f : Channel → Channel) : (modCh c f s).updApplied = s.updApplied := rfl
@[simp] theorem modCh_updSkipped (f : Channel → Channel) : (modCh c f s).updSkipped = s.updSkipped := rfl
@[simp] theorem modCh_snapOp (f : Channel → Channel) : (modCh c f s).snapOp = s.snapOp := rfl
@[simp] theorem modCh_snapTime (f : Channel → Channel) : (modCh c f s).snapTime = s.snapTime := rfl
@[simp] theorem modCh_locks (f : Channel → Channel) : (modCh c f s).locks = s.locks := rfl
@[simp] theorem modCh_holds (f : Channel → Channel) : (modCh c f s).holds = s.holds := rfl
@[simp] theorem modCh_load (f : Channel → Channel) : (modCh c f s).load = s.load := rfl
@[simp] theorem modCh_imgValid (f : Channel → Channel) : (modCh c f s).imgValid = s.imgValid := rfl
@[simp] theorem modCh_imgResult (f : Channel → Channel) : (modCh c f s).imgResult = s.imgResult := rfl
@[simp] theorem modCh_imgBuild (f : Channel → Channel) : (modCh c f s).imgBuild = s.imgBuild := rfl
@[simp] theorem modCh_imgSeq (f : Channel → Channel) : (modCh c f s).imgSeq = s.imgSeq := rfl
@[simp] theorem modCh_life (f : Channel → Channel) : (modCh c f s).life = s.life := rfl
@[simp] theorem modCh_agentOps (f : Channel → Channel) : (modCh c f s).agentOps = s.agentOps := rfl
@[simp] theorem modCh_ist (f : Channel → Channel) : (modCh c f s).ist = s.ist := rfl
@[simp] theorem modCh_flushed (f : Channel → Channel) : (modCh c f s).flushed = s.flushed := rfl
@[simp] theorem modCh_instOps (f : Channel → Channel) : (modCh c f s).instOps = s.instOps := rfl
@[simp] theorem modCh_saved (f : Channel → Channel) : (modCh c f s).saved = s.saved := rfl
@[simp] theorem modCh_pwrRun (f : Channel → Channel) : (modCh c f s).pwrRun = s.pwrRun := rfl
@[simp] theorem modCh_pwrPend (f : Channel → Channel) : (modCh c f s).pwrPend = s.pwrPend := rfl
@[simp] theorem modCh_bankRun (f : Channel → Channel) : (modCh c f s).bankRun = s.bankRun := rfl
@[simp] theorem modCh_chRst (f : Channel → Channel) : (modCh c f s).chRst = s.chRst := rfl
@[simp] theorem modCh_raw (f : Channel → Channel) : (modCh c f s).raw = s.raw := rfl
@[simp] theorem modCh_rawOpen (f : Channel → Channel) : (modCh c f s).rawOpen = s.rawOpen := rfl
@[simp] theorem modCh_alarm (f : Channel → Channel) : (modCh c f s).alarm = s.alarm := rfl
@[simp] theorem modCh_alarmGood (f : Channel → Channel) : (modCh c f s).alarmGood = s.alarmGood := rfl

-- ## The fields a change of a tile leaves

@[simp] theorem modTile_pending (f : Tile → Tile) : (modTile c t f s).pending = s.pending := rfl
@[simp] theorem modTile_tick (f : Tile → Tile) : (modTile c t f s).tick = s.tick := rfl
@[simp] theorem modTile_ripe (f : Tile → Tile) : (modTile c t f s).ripe = s.ripe := rfl
@[simp] theorem modTile_pclk (f : Tile → Tile) : (modTile c t f s).pclk = s.pclk := rfl
@[simp] theorem modTile_coldN (f : Tile → Tile) : (modTile c t f s).coldN = s.coldN := rfl
@[simp] theorem modTile_warmN (f : Tile → Tile) : (modTile c t f s).warmN = s.warmN := rfl
@[simp] theorem modTile_adLevel (f : Tile → Tile) : (modTile c t f s).adLevel = s.adLevel := rfl
@[simp] theorem modTile_mcLevel (f : Tile → Tile) : (modTile c t f s).mcLevel = s.mcLevel := rfl
@[simp] theorem modTile_adSince (f : Tile → Tile) : (modTile c t f s).adSince = s.adSince := rfl
@[simp] theorem modTile_mcSince (f : Tile → Tile) : (modTile c t f s).mcSince = s.mcSince := rfl
@[simp] theorem modTile_adLost (f : Tile → Tile) : (modTile c t f s).adLost = s.adLost := rfl
@[simp] theorem modTile_mcLost (f : Tile → Tile) : (modTile c t f s).mcLost = s.mcLost := rfl
@[simp] theorem modTile_rspQ (f : Tile → Tile) : (modTile c t f s).rspQ = s.rspQ := rfl
@[simp] theorem modTile_app (f : Tile → Tile) : (modTile c t f s).app = s.app := rfl
@[simp] theorem modTile_stg (f : Tile → Tile) : (modTile c t f s).stg = s.stg := rfl
@[simp] theorem modTile_ct (f : Tile → Tile) : (modTile c t f s).ct = s.ct := rfl
@[simp] theorem modTile_held (f : Tile → Tile) : (modTile c t f s).held = s.held := rfl
@[simp] theorem modTile_wo (f : Tile → Tile) : (modTile c t f s).wo = s.wo := rfl
@[simp] theorem modTile_cmSeq (f : Tile → Tile) : (modTile c t f s).cmSeq = s.cmSeq := rfl
@[simp] theorem modTile_snap (f : Tile → Tile) : (modTile c t f s).snap = s.snap := rfl
@[simp] theorem modTile_jrn (f : Tile → Tile) : (modTile c t f s).jrn = s.jrn := rfl
@[simp] theorem modTile_jrnBad (f : Tile → Tile) : (modTile c t f s).jrnBad = s.jrnBad := rfl
@[simp] theorem modTile_jrnNext (f : Tile → Tile) : (modTile c t f s).jrnNext = s.jrnNext := rfl
@[simp] theorem modTile_jrnOpen (f : Tile → Tile) : (modTile c t f s).jrnOpen = s.jrnOpen := rfl
@[simp] theorem modTile_windows (f : Tile → Tile) : (modTile c t f s).windows = s.windows := rfl
@[simp] theorem modTile_jrnGauge (f : Tile → Tile) : (modTile c t f s).jrnGauge = s.jrnGauge := rfl
@[simp] theorem modTile_jrnScrub (f : Tile → Tile) : (modTile c t f s).jrnScrub = s.jrnScrub := rfl
@[simp] theorem modTile_jrnLeakAt (f : Tile → Tile) : (modTile c t f s).jrnLeakAt = s.jrnLeakAt := rfl
@[simp] theorem modTile_jrnScrubAt (f : Tile → Tile) : (modTile c t f s).jrnScrubAt = s.jrnScrubAt := rfl
@[simp] theorem modTile_strobe (f : Tile → Tile) : (modTile c t f s).strobe = s.strobe := rfl
@[simp] theorem modTile_updApplied (f : Tile → Tile) : (modTile c t f s).updApplied = s.updApplied := rfl
@[simp] theorem modTile_updSkipped (f : Tile → Tile) : (modTile c t f s).updSkipped = s.updSkipped := rfl
@[simp] theorem modTile_snapOp (f : Tile → Tile) : (modTile c t f s).snapOp = s.snapOp := rfl
@[simp] theorem modTile_snapTime (f : Tile → Tile) : (modTile c t f s).snapTime = s.snapTime := rfl
@[simp] theorem modTile_locks (f : Tile → Tile) : (modTile c t f s).locks = s.locks := rfl
@[simp] theorem modTile_holds (f : Tile → Tile) : (modTile c t f s).holds = s.holds := rfl
@[simp] theorem modTile_load (f : Tile → Tile) : (modTile c t f s).load = s.load := rfl
@[simp] theorem modTile_imgValid (f : Tile → Tile) : (modTile c t f s).imgValid = s.imgValid := rfl
@[simp] theorem modTile_imgResult (f : Tile → Tile) : (modTile c t f s).imgResult = s.imgResult := rfl
@[simp] theorem modTile_imgBuild (f : Tile → Tile) : (modTile c t f s).imgBuild = s.imgBuild := rfl
@[simp] theorem modTile_imgSeq (f : Tile → Tile) : (modTile c t f s).imgSeq = s.imgSeq := rfl
@[simp] theorem modTile_life (f : Tile → Tile) : (modTile c t f s).life = s.life := rfl
@[simp] theorem modTile_agentOps (f : Tile → Tile) : (modTile c t f s).agentOps = s.agentOps := rfl
@[simp] theorem modTile_ist (f : Tile → Tile) : (modTile c t f s).ist = s.ist := rfl
@[simp] theorem modTile_flushed (f : Tile → Tile) : (modTile c t f s).flushed = s.flushed := rfl
@[simp] theorem modTile_instOps (f : Tile → Tile) : (modTile c t f s).instOps = s.instOps := rfl
@[simp] theorem modTile_saved (f : Tile → Tile) : (modTile c t f s).saved = s.saved := rfl
@[simp] theorem modTile_pwrRun (f : Tile → Tile) : (modTile c t f s).pwrRun = s.pwrRun := rfl
@[simp] theorem modTile_pwrPend (f : Tile → Tile) : (modTile c t f s).pwrPend = s.pwrPend := rfl
@[simp] theorem modTile_bankRun (f : Tile → Tile) : (modTile c t f s).bankRun = s.bankRun := rfl
@[simp] theorem modTile_chRst (f : Tile → Tile) : (modTile c t f s).chRst = s.chRst := rfl
@[simp] theorem modTile_raw (f : Tile → Tile) : (modTile c t f s).raw = s.raw := rfl
@[simp] theorem modTile_rawOpen (f : Tile → Tile) : (modTile c t f s).rawOpen = s.rawOpen := rfl
@[simp] theorem modTile_alarm (f : Tile → Tile) : (modTile c t f s).alarm = s.alarm := rfl
@[simp] theorem modTile_alarmGood (f : Tile → Tile) : (modTile c t f s).alarmGood = s.alarmGood := rfl

-- ## The fields an answer of the host port leaves

@[simp] theorem sendRsp_pending (r : Response) : (sendRsp r s).pending = s.pending := rfl
@[simp] theorem sendRsp_tick (r : Response) : (sendRsp r s).tick = s.tick := rfl
@[simp] theorem sendRsp_ripe (r : Response) : (sendRsp r s).ripe = s.ripe := rfl
@[simp] theorem sendRsp_pclk (r : Response) : (sendRsp r s).pclk = s.pclk := rfl
@[simp] theorem sendRsp_coldN (r : Response) : (sendRsp r s).coldN = s.coldN := rfl
@[simp] theorem sendRsp_warmN (r : Response) : (sendRsp r s).warmN = s.warmN := rfl
@[simp] theorem sendRsp_adLevel (r : Response) : (sendRsp r s).adLevel = s.adLevel := rfl
@[simp] theorem sendRsp_mcLevel (r : Response) : (sendRsp r s).mcLevel = s.mcLevel := rfl
@[simp] theorem sendRsp_adSince (r : Response) : (sendRsp r s).adSince = s.adSince := rfl
@[simp] theorem sendRsp_mcSince (r : Response) : (sendRsp r s).mcSince = s.mcSince := rfl
@[simp] theorem sendRsp_adLost (r : Response) : (sendRsp r s).adLost = s.adLost := rfl
@[simp] theorem sendRsp_mcLost (r : Response) : (sendRsp r s).mcLost = s.mcLost := rfl
@[simp] theorem sendRsp_app (r : Response) : (sendRsp r s).app = s.app := rfl
@[simp] theorem sendRsp_stg (r : Response) : (sendRsp r s).stg = s.stg := rfl
@[simp] theorem sendRsp_ct (r : Response) : (sendRsp r s).ct = s.ct := rfl
@[simp] theorem sendRsp_held (r : Response) : (sendRsp r s).held = s.held := rfl
@[simp] theorem sendRsp_wo (r : Response) : (sendRsp r s).wo = s.wo := rfl
@[simp] theorem sendRsp_cmSeq (r : Response) : (sendRsp r s).cmSeq = s.cmSeq := rfl
@[simp] theorem sendRsp_snap (r : Response) : (sendRsp r s).snap = s.snap := rfl
@[simp] theorem sendRsp_jrn (r : Response) : (sendRsp r s).jrn = s.jrn := rfl
@[simp] theorem sendRsp_jrnBad (r : Response) : (sendRsp r s).jrnBad = s.jrnBad := rfl
@[simp] theorem sendRsp_jrnNext (r : Response) : (sendRsp r s).jrnNext = s.jrnNext := rfl
@[simp] theorem sendRsp_jrnOpen (r : Response) : (sendRsp r s).jrnOpen = s.jrnOpen := rfl
@[simp] theorem sendRsp_windows (r : Response) : (sendRsp r s).windows = s.windows := rfl
@[simp] theorem sendRsp_jrnGauge (r : Response) : (sendRsp r s).jrnGauge = s.jrnGauge := rfl
@[simp] theorem sendRsp_jrnScrub (r : Response) : (sendRsp r s).jrnScrub = s.jrnScrub := rfl
@[simp] theorem sendRsp_jrnLeakAt (r : Response) : (sendRsp r s).jrnLeakAt = s.jrnLeakAt := rfl
@[simp] theorem sendRsp_jrnScrubAt (r : Response) : (sendRsp r s).jrnScrubAt = s.jrnScrubAt := rfl
@[simp] theorem sendRsp_strobe (r : Response) : (sendRsp r s).strobe = s.strobe := rfl
@[simp] theorem sendRsp_updApplied (r : Response) : (sendRsp r s).updApplied = s.updApplied := rfl
@[simp] theorem sendRsp_updSkipped (r : Response) : (sendRsp r s).updSkipped = s.updSkipped := rfl
@[simp] theorem sendRsp_snapOp (r : Response) : (sendRsp r s).snapOp = s.snapOp := rfl
@[simp] theorem sendRsp_snapTime (r : Response) : (sendRsp r s).snapTime = s.snapTime := rfl
@[simp] theorem sendRsp_locks (r : Response) : (sendRsp r s).locks = s.locks := rfl
@[simp] theorem sendRsp_holds (r : Response) : (sendRsp r s).holds = s.holds := rfl
@[simp] theorem sendRsp_load (r : Response) : (sendRsp r s).load = s.load := rfl
@[simp] theorem sendRsp_imgValid (r : Response) : (sendRsp r s).imgValid = s.imgValid := rfl
@[simp] theorem sendRsp_imgResult (r : Response) : (sendRsp r s).imgResult = s.imgResult := rfl
@[simp] theorem sendRsp_imgBuild (r : Response) : (sendRsp r s).imgBuild = s.imgBuild := rfl
@[simp] theorem sendRsp_imgSeq (r : Response) : (sendRsp r s).imgSeq = s.imgSeq := rfl
@[simp] theorem sendRsp_life (r : Response) : (sendRsp r s).life = s.life := rfl
@[simp] theorem sendRsp_agentOps (r : Response) : (sendRsp r s).agentOps = s.agentOps := rfl
@[simp] theorem sendRsp_ist (r : Response) : (sendRsp r s).ist = s.ist := rfl
@[simp] theorem sendRsp_flushed (r : Response) : (sendRsp r s).flushed = s.flushed := rfl
@[simp] theorem sendRsp_instOps (r : Response) : (sendRsp r s).instOps = s.instOps := rfl
@[simp] theorem sendRsp_saved (r : Response) : (sendRsp r s).saved = s.saved := rfl
@[simp] theorem sendRsp_pwrRun (r : Response) : (sendRsp r s).pwrRun = s.pwrRun := rfl
@[simp] theorem sendRsp_pwrPend (r : Response) : (sendRsp r s).pwrPend = s.pwrPend := rfl
@[simp] theorem sendRsp_bankRun (r : Response) : (sendRsp r s).bankRun = s.bankRun := rfl
@[simp] theorem sendRsp_chRst (r : Response) : (sendRsp r s).chRst = s.chRst := rfl
@[simp] theorem sendRsp_raw (r : Response) : (sendRsp r s).raw = s.raw := rfl
@[simp] theorem sendRsp_rawOpen (r : Response) : (sendRsp r s).rawOpen = s.rawOpen := rfl
@[simp] theorem sendRsp_alarm (r : Response) : (sendRsp r s).alarm = s.alarm := rfl
@[simp] theorem sendRsp_alarmGood (r : Response) : (sendRsp r s).alarmGood = s.alarmGood := rfl
@[simp] theorem sendRsp_chans (r : Response) : (sendRsp r s).chans = s.chans := rfl

-- ## The fields a counter leaves

@[simp] theorem ctAdd_pending (a lo n m : Nat) : (ctAdd a lo n m s).pending = s.pending := rfl
@[simp] theorem ctAdd_tick (a lo n m : Nat) : (ctAdd a lo n m s).tick = s.tick := rfl
@[simp] theorem ctAdd_ripe (a lo n m : Nat) : (ctAdd a lo n m s).ripe = s.ripe := rfl
@[simp] theorem ctAdd_pclk (a lo n m : Nat) : (ctAdd a lo n m s).pclk = s.pclk := rfl
@[simp] theorem ctAdd_coldN (a lo n m : Nat) : (ctAdd a lo n m s).coldN = s.coldN := rfl
@[simp] theorem ctAdd_warmN (a lo n m : Nat) : (ctAdd a lo n m s).warmN = s.warmN := rfl
@[simp] theorem ctAdd_adLevel (a lo n m : Nat) : (ctAdd a lo n m s).adLevel = s.adLevel := rfl
@[simp] theorem ctAdd_mcLevel (a lo n m : Nat) : (ctAdd a lo n m s).mcLevel = s.mcLevel := rfl
@[simp] theorem ctAdd_adSince (a lo n m : Nat) : (ctAdd a lo n m s).adSince = s.adSince := rfl
@[simp] theorem ctAdd_mcSince (a lo n m : Nat) : (ctAdd a lo n m s).mcSince = s.mcSince := rfl
@[simp] theorem ctAdd_adLost (a lo n m : Nat) : (ctAdd a lo n m s).adLost = s.adLost := rfl
@[simp] theorem ctAdd_mcLost (a lo n m : Nat) : (ctAdd a lo n m s).mcLost = s.mcLost := rfl
@[simp] theorem ctAdd_rspQ (a lo n m : Nat) : (ctAdd a lo n m s).rspQ = s.rspQ := rfl
@[simp] theorem ctAdd_app (a lo n m : Nat) : (ctAdd a lo n m s).app = s.app := rfl
@[simp] theorem ctAdd_stg (a lo n m : Nat) : (ctAdd a lo n m s).stg = s.stg := rfl
@[simp] theorem ctAdd_held (a lo n m : Nat) : (ctAdd a lo n m s).held = s.held := rfl
@[simp] theorem ctAdd_wo (a lo n m : Nat) : (ctAdd a lo n m s).wo = s.wo := rfl
@[simp] theorem ctAdd_cmSeq (a lo n m : Nat) : (ctAdd a lo n m s).cmSeq = s.cmSeq := rfl
@[simp] theorem ctAdd_snap (a lo n m : Nat) : (ctAdd a lo n m s).snap = s.snap := rfl
@[simp] theorem ctAdd_jrn (a lo n m : Nat) : (ctAdd a lo n m s).jrn = s.jrn := rfl
@[simp] theorem ctAdd_jrnBad (a lo n m : Nat) : (ctAdd a lo n m s).jrnBad = s.jrnBad := rfl
@[simp] theorem ctAdd_jrnNext (a lo n m : Nat) : (ctAdd a lo n m s).jrnNext = s.jrnNext := rfl
@[simp] theorem ctAdd_jrnOpen (a lo n m : Nat) : (ctAdd a lo n m s).jrnOpen = s.jrnOpen := rfl
@[simp] theorem ctAdd_windows (a lo n m : Nat) : (ctAdd a lo n m s).windows = s.windows := rfl
@[simp] theorem ctAdd_jrnGauge (a lo n m : Nat) : (ctAdd a lo n m s).jrnGauge = s.jrnGauge := rfl
@[simp] theorem ctAdd_jrnScrub (a lo n m : Nat) : (ctAdd a lo n m s).jrnScrub = s.jrnScrub := rfl
@[simp] theorem ctAdd_jrnLeakAt (a lo n m : Nat) : (ctAdd a lo n m s).jrnLeakAt = s.jrnLeakAt := rfl
@[simp] theorem ctAdd_jrnScrubAt (a lo n m : Nat) : (ctAdd a lo n m s).jrnScrubAt = s.jrnScrubAt := rfl
@[simp] theorem ctAdd_strobe (a lo n m : Nat) : (ctAdd a lo n m s).strobe = s.strobe := rfl
@[simp] theorem ctAdd_updApplied (a lo n m : Nat) : (ctAdd a lo n m s).updApplied = s.updApplied := rfl
@[simp] theorem ctAdd_updSkipped (a lo n m : Nat) : (ctAdd a lo n m s).updSkipped = s.updSkipped := rfl
@[simp] theorem ctAdd_snapOp (a lo n m : Nat) : (ctAdd a lo n m s).snapOp = s.snapOp := rfl
@[simp] theorem ctAdd_snapTime (a lo n m : Nat) : (ctAdd a lo n m s).snapTime = s.snapTime := rfl
@[simp] theorem ctAdd_locks (a lo n m : Nat) : (ctAdd a lo n m s).locks = s.locks := rfl
@[simp] theorem ctAdd_holds (a lo n m : Nat) : (ctAdd a lo n m s).holds = s.holds := rfl
@[simp] theorem ctAdd_load (a lo n m : Nat) : (ctAdd a lo n m s).load = s.load := rfl
@[simp] theorem ctAdd_imgValid (a lo n m : Nat) : (ctAdd a lo n m s).imgValid = s.imgValid := rfl
@[simp] theorem ctAdd_imgResult (a lo n m : Nat) : (ctAdd a lo n m s).imgResult = s.imgResult := rfl
@[simp] theorem ctAdd_imgBuild (a lo n m : Nat) : (ctAdd a lo n m s).imgBuild = s.imgBuild := rfl
@[simp] theorem ctAdd_imgSeq (a lo n m : Nat) : (ctAdd a lo n m s).imgSeq = s.imgSeq := rfl
@[simp] theorem ctAdd_life (a lo n m : Nat) : (ctAdd a lo n m s).life = s.life := rfl
@[simp] theorem ctAdd_agentOps (a lo n m : Nat) : (ctAdd a lo n m s).agentOps = s.agentOps := rfl
@[simp] theorem ctAdd_ist (a lo n m : Nat) : (ctAdd a lo n m s).ist = s.ist := rfl
@[simp] theorem ctAdd_flushed (a lo n m : Nat) : (ctAdd a lo n m s).flushed = s.flushed := rfl
@[simp] theorem ctAdd_instOps (a lo n m : Nat) : (ctAdd a lo n m s).instOps = s.instOps := rfl
@[simp] theorem ctAdd_saved (a lo n m : Nat) : (ctAdd a lo n m s).saved = s.saved := rfl
@[simp] theorem ctAdd_pwrRun (a lo n m : Nat) : (ctAdd a lo n m s).pwrRun = s.pwrRun := rfl
@[simp] theorem ctAdd_pwrPend (a lo n m : Nat) : (ctAdd a lo n m s).pwrPend = s.pwrPend := rfl
@[simp] theorem ctAdd_bankRun (a lo n m : Nat) : (ctAdd a lo n m s).bankRun = s.bankRun := rfl
@[simp] theorem ctAdd_chRst (a lo n m : Nat) : (ctAdd a lo n m s).chRst = s.chRst := rfl
@[simp] theorem ctAdd_raw (a lo n m : Nat) : (ctAdd a lo n m s).raw = s.raw := rfl
@[simp] theorem ctAdd_rawOpen (a lo n m : Nat) : (ctAdd a lo n m s).rawOpen = s.rawOpen := rfl
@[simp] theorem ctAdd_alarm (a lo n m : Nat) : (ctAdd a lo n m s).alarm = s.alarm := rfl
@[simp] theorem ctAdd_alarmGood (a lo n m : Nat) : (ctAdd a lo n m s).alarmGood = s.alarmGood := rfl
@[simp] theorem ctAdd_chans (a lo n m : Nat) : (ctAdd a lo n m s).chans = s.chans := rfl

-- ## The fields a saturating counter leaves

@[simp] theorem ctAddSat_pending (a lo n m : Nat) : (ctAddSat a lo n m s).pending = s.pending := rfl
@[simp] theorem ctAddSat_tick (a lo n m : Nat) : (ctAddSat a lo n m s).tick = s.tick := rfl
@[simp] theorem ctAddSat_ripe (a lo n m : Nat) : (ctAddSat a lo n m s).ripe = s.ripe := rfl
@[simp] theorem ctAddSat_pclk (a lo n m : Nat) : (ctAddSat a lo n m s).pclk = s.pclk := rfl
@[simp] theorem ctAddSat_coldN (a lo n m : Nat) : (ctAddSat a lo n m s).coldN = s.coldN := rfl
@[simp] theorem ctAddSat_warmN (a lo n m : Nat) : (ctAddSat a lo n m s).warmN = s.warmN := rfl
@[simp] theorem ctAddSat_adLevel (a lo n m : Nat) : (ctAddSat a lo n m s).adLevel = s.adLevel := rfl
@[simp] theorem ctAddSat_mcLevel (a lo n m : Nat) : (ctAddSat a lo n m s).mcLevel = s.mcLevel := rfl
@[simp] theorem ctAddSat_adSince (a lo n m : Nat) : (ctAddSat a lo n m s).adSince = s.adSince := rfl
@[simp] theorem ctAddSat_mcSince (a lo n m : Nat) : (ctAddSat a lo n m s).mcSince = s.mcSince := rfl
@[simp] theorem ctAddSat_adLost (a lo n m : Nat) : (ctAddSat a lo n m s).adLost = s.adLost := rfl
@[simp] theorem ctAddSat_mcLost (a lo n m : Nat) : (ctAddSat a lo n m s).mcLost = s.mcLost := rfl
@[simp] theorem ctAddSat_rspQ (a lo n m : Nat) : (ctAddSat a lo n m s).rspQ = s.rspQ := rfl
@[simp] theorem ctAddSat_app (a lo n m : Nat) : (ctAddSat a lo n m s).app = s.app := rfl
@[simp] theorem ctAddSat_stg (a lo n m : Nat) : (ctAddSat a lo n m s).stg = s.stg := rfl
@[simp] theorem ctAddSat_held (a lo n m : Nat) : (ctAddSat a lo n m s).held = s.held := rfl
@[simp] theorem ctAddSat_wo (a lo n m : Nat) : (ctAddSat a lo n m s).wo = s.wo := rfl
@[simp] theorem ctAddSat_cmSeq (a lo n m : Nat) : (ctAddSat a lo n m s).cmSeq = s.cmSeq := rfl
@[simp] theorem ctAddSat_snap (a lo n m : Nat) : (ctAddSat a lo n m s).snap = s.snap := rfl
@[simp] theorem ctAddSat_jrn (a lo n m : Nat) : (ctAddSat a lo n m s).jrn = s.jrn := rfl
@[simp] theorem ctAddSat_jrnBad (a lo n m : Nat) : (ctAddSat a lo n m s).jrnBad = s.jrnBad := rfl
@[simp] theorem ctAddSat_jrnNext (a lo n m : Nat) : (ctAddSat a lo n m s).jrnNext = s.jrnNext := rfl
@[simp] theorem ctAddSat_jrnOpen (a lo n m : Nat) : (ctAddSat a lo n m s).jrnOpen = s.jrnOpen := rfl
@[simp] theorem ctAddSat_windows (a lo n m : Nat) : (ctAddSat a lo n m s).windows = s.windows := rfl
@[simp] theorem ctAddSat_jrnGauge (a lo n m : Nat) : (ctAddSat a lo n m s).jrnGauge = s.jrnGauge := rfl
@[simp] theorem ctAddSat_jrnScrub (a lo n m : Nat) : (ctAddSat a lo n m s).jrnScrub = s.jrnScrub := rfl
@[simp] theorem ctAddSat_jrnLeakAt (a lo n m : Nat) : (ctAddSat a lo n m s).jrnLeakAt = s.jrnLeakAt := rfl
@[simp] theorem ctAddSat_jrnScrubAt (a lo n m : Nat) : (ctAddSat a lo n m s).jrnScrubAt = s.jrnScrubAt := rfl
@[simp] theorem ctAddSat_strobe (a lo n m : Nat) : (ctAddSat a lo n m s).strobe = s.strobe := rfl
@[simp] theorem ctAddSat_updApplied (a lo n m : Nat) : (ctAddSat a lo n m s).updApplied = s.updApplied := rfl
@[simp] theorem ctAddSat_updSkipped (a lo n m : Nat) : (ctAddSat a lo n m s).updSkipped = s.updSkipped := rfl
@[simp] theorem ctAddSat_snapOp (a lo n m : Nat) : (ctAddSat a lo n m s).snapOp = s.snapOp := rfl
@[simp] theorem ctAddSat_snapTime (a lo n m : Nat) : (ctAddSat a lo n m s).snapTime = s.snapTime := rfl
@[simp] theorem ctAddSat_locks (a lo n m : Nat) : (ctAddSat a lo n m s).locks = s.locks := rfl
@[simp] theorem ctAddSat_holds (a lo n m : Nat) : (ctAddSat a lo n m s).holds = s.holds := rfl
@[simp] theorem ctAddSat_load (a lo n m : Nat) : (ctAddSat a lo n m s).load = s.load := rfl
@[simp] theorem ctAddSat_imgValid (a lo n m : Nat) : (ctAddSat a lo n m s).imgValid = s.imgValid := rfl
@[simp] theorem ctAddSat_imgResult (a lo n m : Nat) : (ctAddSat a lo n m s).imgResult = s.imgResult := rfl
@[simp] theorem ctAddSat_imgBuild (a lo n m : Nat) : (ctAddSat a lo n m s).imgBuild = s.imgBuild := rfl
@[simp] theorem ctAddSat_imgSeq (a lo n m : Nat) : (ctAddSat a lo n m s).imgSeq = s.imgSeq := rfl
@[simp] theorem ctAddSat_life (a lo n m : Nat) : (ctAddSat a lo n m s).life = s.life := rfl
@[simp] theorem ctAddSat_agentOps (a lo n m : Nat) : (ctAddSat a lo n m s).agentOps = s.agentOps := rfl
@[simp] theorem ctAddSat_ist (a lo n m : Nat) : (ctAddSat a lo n m s).ist = s.ist := rfl
@[simp] theorem ctAddSat_flushed (a lo n m : Nat) : (ctAddSat a lo n m s).flushed = s.flushed := rfl
@[simp] theorem ctAddSat_instOps (a lo n m : Nat) : (ctAddSat a lo n m s).instOps = s.instOps := rfl
@[simp] theorem ctAddSat_saved (a lo n m : Nat) : (ctAddSat a lo n m s).saved = s.saved := rfl
@[simp] theorem ctAddSat_pwrRun (a lo n m : Nat) : (ctAddSat a lo n m s).pwrRun = s.pwrRun := rfl
@[simp] theorem ctAddSat_pwrPend (a lo n m : Nat) : (ctAddSat a lo n m s).pwrPend = s.pwrPend := rfl
@[simp] theorem ctAddSat_bankRun (a lo n m : Nat) : (ctAddSat a lo n m s).bankRun = s.bankRun := rfl
@[simp] theorem ctAddSat_chRst (a lo n m : Nat) : (ctAddSat a lo n m s).chRst = s.chRst := rfl
@[simp] theorem ctAddSat_raw (a lo n m : Nat) : (ctAddSat a lo n m s).raw = s.raw := rfl
@[simp] theorem ctAddSat_rawOpen (a lo n m : Nat) : (ctAddSat a lo n m s).rawOpen = s.rawOpen := rfl
@[simp] theorem ctAddSat_alarm (a lo n m : Nat) : (ctAddSat a lo n m s).alarm = s.alarm := rfl
@[simp] theorem ctAddSat_alarmGood (a lo n m : Nat) : (ctAddSat a lo n m s).alarmGood = s.alarmGood := rfl
@[simp] theorem ctAddSat_chans (a lo n m : Nat) : (ctAddSat a lo n m s).chans = s.chans := rfl

@[simp] theorem ch_sendRsp (r : Response) : ch (sendRsp r s) c = ch s c := rfl
@[simp] theorem ch_ctAdd (a lo n m : Nat) : ch (ctAdd a lo n m s) c = ch s c := rfl
@[simp] theorem ch_ctAddSat (a lo n m : Nat) : ch (ctAddSat a lo n m s) c = ch s c := rfl
@[simp] theorem sendRsp_rsp (r : Response) : (sendRsp r s).rsp = some r := by simp [State.rsp, sendRsp]
@[simp] theorem respond_eq (v : Word) : respond v s = sendRsp ⟨0, v⟩ s := rfl

-- ## What a change of a tile leaves in its channel

@[simp] theorem ch_modTile_pwr (f : Tile → Tile) : (ch (modTile c t f s) c).pwr = (ch s c).pwr := by simp [modTile]
@[simp] theorem ch_modTile_fence (f : Tile → Tile) : (ch (modTile c t f s) c).fence = (ch s c).fence := by simp [modTile]
@[simp] theorem ch_modTile_cause (f : Tile → Tile) : (ch (modTile c t f s) c).cause = (ch s c).cause := by simp [modTile]
@[simp] theorem ch_modTile_alive (f : Tile → Tile) : (ch (modTile c t f s) c).alive = (ch s c).alive := by simp [modTile]
@[simp] theorem ch_modTile_aliveTick (f : Tile → Tile) : (ch (modTile c t f s) c).aliveTick = (ch s c).aliveTick := by simp [modTile]
@[simp] theorem ch_modTile_drainTick (f : Tile → Tile) : (ch (modTile c t f s) c).drainTick = (ch s c).drainTick := by simp [modTile]
@[simp] theorem ch_modTile_vacate (f : Tile → Tile) : (ch (modTile c t f s) c).vacate = (ch s c).vacate := by simp [modTile]
@[simp] theorem ch_modTile_limit (f : Tile → Tile) : (ch (modTile c t f s) c).limit = (ch s c).limit := by simp [modTile]
@[simp] theorem ch_modTile_startup (f : Tile → Tile) : (ch (modTile c t f s) c).startup = (ch s c).startup := by simp [modTile]
@[simp] theorem ch_modTile_upWait (f : Tile → Tile) : (ch (modTile c t f s) c).upWait = (ch s c).upWait := by simp [modTile]
@[simp] theorem ch_modTile_resumeOn (f : Tile → Tile) : (ch (modTile c t f s) c).resumeOn = (ch s c).resumeOn := by simp [modTile]
@[simp] theorem ch_modTile_age (f : Tile → Tile) : (ch (modTile c t f s) c).age = (ch s c).age := by simp [modTile]
@[simp] theorem ch_modTile_nextRid (f : Tile → Tile) : (ch (modTile c t f s) c).nextRid = (ch s c).nextRid := by simp [modTile]
@[simp] theorem ch_modTile_hoff (f : Tile → Tile) : (ch (modTile c t f s) c).hoff = (ch s c).hoff := by simp [modTile]
@[simp] theorem ch_modTile_strA (f : Tile → Tile) : (ch (modTile c t f s) c).strA = (ch s c).strA := by simp [modTile]
@[simp] theorem ch_modTile_strB (f : Tile → Tile) : (ch (modTile c t f s) c).strB = (ch s c).strB := by simp [modTile]
@[simp] theorem ch_modTile_lastA (f : Tile → Tile) : (ch (modTile c t f s) c).lastA = (ch s c).lastA := by simp [modTile]
@[simp] theorem ch_modTile_lastB (f : Tile → Tile) : (ch (modTile c t f s) c).lastB = (ch s c).lastB := by simp [modTile]
@[simp] theorem ch_modTile_lastPa (f : Tile → Tile) : (ch (modTile c t f s) c).lastPa = (ch s c).lastPa := by simp [modTile]
@[simp] theorem ch_modTile_decEdge (f : Tile → Tile) : (ch (modTile c t f s) c).decEdge = (ch s c).decEdge := by simp [modTile]
@[simp] theorem ch_modTile_landings (f : Tile → Tile) : (ch (modTile c t f s) c).landings = (ch s c).landings := by simp [modTile]
@[simp] theorem ch_modTile_pause (f : Tile → Tile) : (ch (modTile c t f s) c).pause = (ch s c).pause := by simp [modTile]
@[simp] theorem ch_modTile_openReqs (f : Tile → Tile) : (ch (modTile c t f s) c).openReqs = (ch s c).openReqs := by simp [modTile]
@[simp] theorem ch_modTile_wexp (f : Tile → Tile) : (ch (modTile c t f s) c).wexp = (ch s c).wexp := by simp [modTile]
@[simp] theorem ch_modTile_biAcks (f : Tile → Tile) : (ch (modTile c t f s) c).biAcks = (ch s c).biAcks := by simp [modTile]
@[simp] theorem ch_modTile_anchors (f : Tile → Tile) : (ch (modTile c t f s) c).anchors = (ch s c).anchors := by simp [modTile]
@[simp] theorem ch_modTile_mrsHeld (f : Tile → Tile) : (ch (modTile c t f s) c).mrsHeld = (ch s c).mrsHeld := by simp [modTile]
@[simp] theorem ch_modTile_vrs (f : Tile → Tile) : (ch (modTile c t f s) c).vrs = (ch s c).vrs := by simp [modTile]
@[simp] theorem ch_modTile_dout (f : Tile → Tile) : (ch (modTile c t f s) c).dout = (ch s c).dout := by simp [modTile]
@[simp] theorem ch_modTile_sno (f : Tile → Tile) : (ch (modTile c t f s) c).sno = (ch s c).sno := by simp [modTile]
@[simp] theorem ch_modTile_mrq (f : Tile → Tile) : (ch (modTile c t f s) c).mrq = (ch s c).mrq := by simp [modTile]
@[simp] theorem ch_modTile_wasLowA (f : Tile → Tile) : (ch (modTile c t f s) c).wasLowA = (ch s c).wasLowA := by simp [modTile]
@[simp] theorem ch_modTile_wasLowB (f : Tile → Tile) : (ch (modTile c t f s) c).wasLowB = (ch s c).wasLowB := by simp [modTile]
@[simp] theorem ch_modTile_broken (f : Tile → Tile) : (ch (modTile c t f s) c).broken = (ch s c).broken := by simp [modTile]
@[simp] theorem ch_modTile_shown (f : Tile → Tile) : (ch (modTile c t f s) c).shown = (ch s c).shown := by simp [modTile]
@[simp] theorem ch_modTile_lastVrs (f : Tile → Tile) : (ch (modTile c t f s) c).lastVrs = (ch s c).lastVrs := by simp [modTile]
@[simp] theorem ch_modTile_lastDout (f : Tile → Tile) : (ch (modTile c t f s) c).lastDout = (ch s c).lastDout := by simp [modTile]
@[simp] theorem ch_modTile_lastSno (f : Tile → Tile) : (ch (modTile c t f s) c).lastSno = (ch s c).lastSno := by simp [modTile]
@[simp] theorem ch_modTile_lastMrq (f : Tile → Tile) : (ch (modTile c t f s) c).lastMrq = (ch s c).lastMrq := by simp [modTile]
@[simp] theorem ch_modTile_lastSni (f : Tile → Tile) : (ch (modTile c t f s) c).lastSni = (ch s c).lastSni := by simp [modTile]
@[simp] theorem ch_modTile_lastDin (f : Tile → Tile) : (ch (modTile c t f s) c).lastDin = (ch s c).lastDin := by simp [modTile]
@[simp] theorem ch_modTile_lastMrs (f : Tile → Tile) : (ch (modTile c t f s) c).lastMrs = (ch s c).lastMrs := by simp [modTile]
@[simp] theorem ch_modTile_halves (f : Tile → Tile) : (ch (modTile c t f s) c).halves = (ch s c).halves := by simp [modTile]
@[simp] theorem ch_modTile_stallVrs (f : Tile → Tile) : (ch (modTile c t f s) c).stallVrs = (ch s c).stallVrs := by simp [modTile]
@[simp] theorem ch_modTile_stallDout (f : Tile → Tile) : (ch (modTile c t f s) c).stallDout = (ch s c).stallDout := by simp [modTile]
@[simp] theorem ch_modTile_stallSno (f : Tile → Tile) : (ch (modTile c t f s) c).stallSno = (ch s c).stallSno := by simp [modTile]
@[simp] theorem ch_modTile_sno16 (f : Tile → Tile) : (ch (modTile c t f s) c).sno16 = (ch s c).sno16 := by simp [modTile]
@[simp] theorem ch_modTile_lastDd (f : Tile → Tile) : (ch (modTile c t f s) c).lastDd = (ch s c).lastDd := by simp [modTile]
@[simp] theorem ch_modTile_settled (f : Tile → Tile) : (ch (modTile c t f s) c).settled = (ch s c).settled := by simp [modTile]
@[simp] theorem ch_modTile_loops (f : Tile → Tile) : (ch (modTile c t f s) c).loops = (ch s c).loops := by simp [modTile]
@[simp] theorem ch_modTile_minNow (f : Tile → Tile) : (ch (modTile c t f s) c).minNow = (ch s c).minNow := by simp [modTile]
@[simp] theorem ch_modTile_thresh (f : Tile → Tile) : (ch (modTile c t f s) c).thresh = (ch s c).thresh := by simp [modTile]
@[simp] theorem ch_modTile_mhz (f : Tile → Tile) : (ch (modTile c t f s) c).mhz = (ch s c).mhz := by simp [modTile]
@[simp] theorem ch_modTile_pclkValid (f : Tile → Tile) : (ch (modTile c t f s) c).pclkValid = (ch s c).pclkValid := by simp [modTile]
@[simp] theorem ch_modTile_decision (f : Tile → Tile) : (ch (modTile c t f s) c).decision = (ch s c).decision := by simp [modTile]
@[simp] theorem ch_modTile_causeBaro (f : Tile → Tile) : (ch (modTile c t f s) c).causeBaro = (ch s c).causeBaro := by simp [modTile]
@[simp] theorem ch_modTile_setByBaro (f : Tile → Tile) : (ch (modTile c t f s) c).setByBaro = (ch s c).setByBaro := by simp [modTile]
@[simp] theorem ch_modTile_good (f : Tile → Tile) : (ch (modTile c t f s) c).good = (ch s c).good := by simp [modTile]
@[simp] theorem ch_modTile_winCount (f : Tile → Tile) : (ch (modTile c t f s) c).winCount = (ch s c).winCount := by simp [modTile]
@[simp] theorem ch_modTile_winStart (f : Tile → Tile) : (ch (modTile c t f s) c).winStart = (ch s c).winStart := by simp [modTile]
@[simp] theorem ch_modTile_winLast (f : Tile → Tile) : (ch (modTile c t f s) c).winLast = (ch s c).winLast := by simp [modTile]
@[simp] theorem ch_modTile_winGood (f : Tile → Tile) : (ch (modTile c t f s) c).winGood = (ch s c).winGood := by simp [modTile]
@[simp] theorem ch_modTile_rings (f : Tile → Tile) : (ch (modTile c t f s) c).rings = (ch s c).rings := by simp [modTile]
@[simp] theorem ch_modTile_rcvRes (f : Tile → Tile) : (ch (modTile c t f s) c).rcvRes = (ch s c).rcvRes := by simp [modTile]
@[simp] theorem ch_modTile_rcvBuf (f : Tile → Tile) : (ch (modTile c t f s) c).rcvBuf = (ch s c).rcvBuf := by simp [modTile]
@[simp] theorem ch_modTile_mem (f : Tile → Tile) : (ch (modTile c t f s) c).mem = (ch s c).mem := by simp [modTile]
@[simp] theorem ch_modTile_rows (f : Tile → Tile) : (ch (modTile c t f s) c).rows = (ch s c).rows := by simp [modTile]
@[simp] theorem ch_modTile_qBad (f : Tile → Tile) : (ch (modTile c t f s) c).qBad = (ch s c).qBad := by simp [modTile]
@[simp] theorem ch_modTile_lc (f : Tile → Tile) : (ch (modTile c t f s) c).lc = (ch s c).lc := by simp [modTile]
@[simp] theorem ch_modTile_invDone (f : Tile → Tile) : (ch (modTile c t f s) c).invDone = (ch s c).invDone := by simp [modTile]
@[simp] theorem ch_modTile_lcRun (f : Tile → Tile) : (ch (modTile c t f s) c).lcRun = (ch s c).lcRun := by simp [modTile]
@[simp] theorem ch_modTile_lcHeld (f : Tile → Tile) : (ch (modTile c t f s) c).lcHeld = (ch s c).lcHeld := by simp [modTile]
@[simp] theorem ch_modTile_jobs (f : Tile → Tile) : (ch (modTile c t f s) c).jobs = (ch s c).jobs := by simp [modTile]
@[simp] theorem ch_modTile_nextJob (f : Tile → Tile) : (ch (modTile c t f s) c).nextJob = (ch s c).nextJob := by simp [modTile]
@[simp] theorem ch_modTile_levels (f : Tile → Tile) : (ch (modTile c t f s) c).levels = (ch s c).levels := by simp [modTile]
@[simp] theorem ch_modTile_newLevels (f : Tile → Tile) : (ch (modTile c t f s) c).newLevels = (ch s c).newLevels := by simp [modTile]
@[simp] theorem ch_modTile_starveE (f : Tile → Tile) : (ch (modTile c t f s) c).starveE = (ch s c).starveE := by simp [modTile]
@[simp] theorem ch_modTile_starveT (f : Tile → Tile) : (ch (modTile c t f s) c).starveT = (ch s c).starveT := by simp [modTile]
@[simp] theorem ch_modTile_tgActive (f : Tile → Tile) : (ch (modTile c t f s) c).tgActive = (ch s c).tgActive := by simp [modTile]
@[simp] theorem ch_modTile_epoch (f : Tile → Tile) : (ch (modTile c t f s) c).epoch = (ch s c).epoch := by simp [modTile]
@[simp] theorem ch_modTile_swapOpen (f : Tile → Tile) : (ch (modTile c t f s) c).swapOpen = (ch s c).swapOpen := by simp [modTile]
@[simp] theorem ch_modTile_notice (f : Tile → Tile) : (ch (modTile c t f s) c).notice = (ch s c).notice := by simp [modTile]
@[simp] theorem ch_modTile_gauges (f : Tile → Tile) : (ch (modTile c t f s) c).gauges = (ch s c).gauges := by simp [modTile]
@[simp] theorem ch_modTile_leakAt (f : Tile → Tile) : (ch (modTile c t f s) c).leakAt = (ch s c).leakAt := by simp [modTile]
@[simp] theorem ch_modTile_setRet (f : Tile → Tile) : (ch (modTile c t f s) c).setRet = (ch s c).setRet := by simp [modTile]
@[simp] theorem ch_modTile_pgRet (f : Tile → Tile) : (ch (modTile c t f s) c).pgRet = (ch s c).pgRet := by simp [modTile]
@[simp] theorem ch_modTile_scrubQ (f : Tile → Tile) : (ch (modTile c t f s) c).scrubQ = (ch s c).scrubQ := by simp [modTile]
@[simp] theorem ch_modTile_scrubQAt (f : Tile → Tile) : (ch (modTile c t f s) c).scrubQAt = (ch s c).scrubQAt := by simp [modTile]
@[simp] theorem ch_modTile_action (f : Tile → Tile) : (ch (modTile c t f s) c).action = (ch s c).action := by simp [modTile]
@[simp] theorem ch_modTile_ckptAt (f : Tile → Tile) : (ch (modTile c t f s) c).ckptAt = (ch s c).ckptAt := by simp [modTile]
@[simp] theorem ch_modTile_ckpt (f : Tile → Tile) : (ch (modTile c t f s) c).ckpt = (ch s c).ckpt := by simp [modTile]
@[simp] theorem ch_modTile_disagreed (f : Tile → Tile) : (ch (modTile c t f s) c).disagreed = (ch s c).disagreed := by simp [modTile]
@[simp] theorem ch_modTile_queueOf (f : Tile → Tile) : (ch (modTile c t f s) c).queueOf = (ch s c).queueOf := by simp [modTile]
@[simp] theorem ch_modTile_simplex (f : Tile → Tile) : (ch (modTile c t f s) c).simplex = (ch s c).simplex := by simp [modTile]
@[simp] theorem ch_modTile_stewardOff (f : Tile → Tile) : (ch (modTile c t f s) c).stewardOff = (ch s c).stewardOff := by simp [modTile]
@[simp] theorem ch_modTile_xret (f : Tile → Tile) : (ch (modTile c t f s) c).xret = (ch s c).xret := by simp [modTile]
@[simp] theorem ch_modTile_yret (f : Tile → Tile) : (ch (modTile c t f s) c).yret = (ch s c).yret := by simp [modTile]
@[simp] theorem ch_modTile_walks (f : Tile → Tile) : (ch (modTile c t f s) c).walks = (ch s c).walks := by simp [modTile]
@[simp] theorem ch_modTile_walkPos (f : Tile → Tile) : (ch (modTile c t f s) c).walkPos = (ch s c).walkPos := by simp [modTile]
@[simp] theorem ch_modTile_copy (f : Tile → Tile) : (ch (modTile c t f s) c).copy = (ch s c).copy := by simp [modTile]
@[simp] theorem ch_modTile_life (f : Tile → Tile) : (ch (modTile c t f s) c).life = (ch s c).life := by simp [modTile]
@[simp] theorem ch_modTile_ist (f : Tile → Tile) : (ch (modTile c t f s) c).ist = (ch s c).ist := by simp [modTile]
@[simp] theorem ch_modTile_queues (f : Tile → Tile) : (ch (modTile c t f s) c).queues = (ch s c).queues := by simp [modTile]
@[simp] theorem ch_modTile_pendq (f : Tile → Tile) : (ch (modTile c t f s) c).pendq = (ch s c).pendq := by simp [modTile]
@[simp] theorem ch_modTile_missed (f : Tile → Tile) : (ch (modTile c t f s) c).missed = (ch s c).missed := by simp [modTile]
@[simp] theorem ch_modTile_owed (f : Tile → Tile) : (ch (modTile c t f s) c).owed = (ch s c).owed := by simp [modTile]
@[simp] theorem ch_modTile_dgHold (f : Tile → Tile) : (ch (modTile c t f s) c).dgHold = (ch s c).dgHold := by simp [modTile]
@[simp] theorem ch_modTile_dgRow (f : Tile → Tile) : (ch (modTile c t f s) c).dgRow = (ch s c).dgRow := by simp [modTile]
@[simp] theorem ch_modTile_dgCol (f : Tile → Tile) : (ch (modTile c t f s) c).dgCol = (ch s c).dgCol := by simp [modTile]
@[simp] theorem ch_modTile_dgRes (f : Tile → Tile) : (ch (modTile c t f s) c).dgRes = (ch s c).dgRes := by simp [modTile]
@[simp] theorem ch_modTile_paBusy (f : Tile → Tile) : (ch (modTile c t f s) c).paBusy = (ch s c).paBusy := by simp [modTile]
@[simp] theorem ch_modTile_paData (f : Tile → Tile) : (ch (modTile c t f s) c).paData = (ch s c).paData := by simp [modTile]
@[simp] theorem ch_modTile_paPoison (f : Tile → Tile) : (ch (modTile c t f s) c).paPoison = (ch s c).paPoison := by simp [modTile]
@[simp] theorem ch_modTile_paSrc (f : Tile → Tile) : (ch (modTile c t f s) c).paSrc = (ch s c).paSrc := by simp [modTile]
@[simp] theorem ch_modTile_paErr (f : Tile → Tile) : (ch (modTile c t f s) c).paErr = (ch s c).paErr := by simp [modTile]
@[simp] theorem ch_modTile_paW (f : Tile → Tile) : (ch (modTile c t f s) c).paW = (ch s c).paW := by simp [modTile]
@[simp] theorem ch_modTile_paRetry (f : Tile → Tile) : (ch (modTile c t f s) c).paRetry = (ch s c).paRetry := by simp [modTile]

end Sys2Proof.Machine
end

