-- ==== Sys2Proof/Laws/Memory.lean ====
section
/-! SUPPORT. The array memory: every operation that changes it keeps its canonical form, and what a write of a word leaves. -/

namespace Sys2Proof.Machine

/-- A word of a channel's memory that a list of writes changes keeps the canonical form. -/
theorem wf_writes (l : List Nat) (key : Nat → Nat) (v : Nat → Word) {m : Tab Word} (h : Tab.wf m = true) :
    Tab.wf (l.foldl (fun m w => Tab.putWord m (key w) (v w)) m) = true :=
  Tab.wf_foldl _ (fun _ _ h => Tab.wf_putWord _ _ h) l h

theorem mendedMem_wf {k : Channel} (key : Nat) (h : Tab.wf k.mem = true) : Tab.wf (mendedMem k key) = true := by
  unfold mendedMem
  split
  · exact Tab.wf_putWord _ _ h
  · exact h

theorem putMem_wf (arr t row w : Nat) (v : Word) {k : Channel} (h : Tab.wf k.mem = true) :
    Tab.wf (putMem arr t row w v k).mem = true :=
  Tab.wf_putWord _ _ (mendedMem_wf _ h)

theorem clearRows_wf (p : Nat → Bool) {k : Channel} (h : Tab.wf k.mem = true) : Tab.wf (clearRows p k).mem = true :=
  Tab.wf_filter _ h

theorem mendRow_wf (key : Nat) (word : Option Nat) (bit : Nat) {k : Channel} (h : Tab.wf k.mem = true) :
    Tab.wf (mendRow key word bit k).mem = true := by
  unfold mendRow
  split
  · exact h
  · exact Tab.wf_putWord _ _ h

theorem zeroRow_wf (key : Nat) {k : Channel} (h : Tab.wf k.mem = true) : Tab.wf (zeroRow key k).mem = true :=
  Tab.wf_foldl _ (fun _ _ h => Tab.wf_drop _ h) _ h

theorem putSlot_wf (s : State) (c : Ch) (n : Nat) (ws : List Word) {k : Channel} (h : Tab.wf k.mem = true) :
    Tab.wf (putSlot s c n ws k).mem = true :=
  Tab.wf_foldl _ (fun _ _ h => Tab.wf_putWord _ _ h) _ h

theorem trimStore_wf (n : Nat) {k : Channel} (h : Tab.wf k.mem = true) : Tab.wf (trimStore n k).mem = true :=
  Tab.wf_filter _ h

theorem wiped_wf (s : State) (c : Ch) (p : Pwr) {k : Channel} (h : Tab.wf k.mem = true) :
    Tab.wf (wiped s c p k).mem = true :=
  Tab.wf_filter _ h

theorem wroteQueue_wf (mode row : Nat) (new : List Word) (chk : Word) (par planted : Bool) {k : Channel}
    (h : Tab.wf k.mem = true) : Tab.wf (wroteQueue mode row new chk par planted k).mem = true :=
  wf_writes _ (fun w => rowKey 9 0 row * 8 + w) _ h

theorem rawWords_wf (key : Nat) (ws : List Word) {m : Tab Word} (h : Tab.wf m = true) :
    Tab.wf ((List.range 8).foldl (fun m w => Tab.putWord m (key * 8 + w) (ws.getD w 0)) m) = true :=
  wf_writes _ (fun w => key * 8 + w) _ h

/-- A change of a channel that keeps the canonical form keeps it in every channel. -/
theorem modCh_wf {s : State} (c : Ch) (f : Channel → Channel)
    (hf : Tab.wf (ch s c).mem = true → Tab.wf (f (ch s c)).mem = true) (h : ∀ d : Ch, Tab.wf (ch s d).mem = true) :
    ∀ d : Ch, Tab.wf (ch (modCh c f s) d).mem = true := by
  intro d
  rw [ch_modCh]
  split
  · exact hf (h c)
  · exact h d

-- ## Keys

theorem rowKey_arr {arr t row : Nat} (ht : t < 16) (hr : row < 8192) : rowKey arr t row / 8192 / 16 = arr := by
  unfold rowKey; omega

theorem rowKey_inj {a a' t t' r r' : Nat} (ht : t < 16) (ht' : t' < 16) (hr : r < 8192) (hr' : r' < 8192)
    (h : rowKey a t r = rowKey a' t' r') : a = a' ∧ t = t' ∧ r = r' := by
  unfold rowKey at h; omega

/-- A write of a word reads back. -/
@[simp] theorem memWord_putMem_self (arr t row w : Nat) (v : Word) (k : Channel) :
    memWord (putMem arr t row w v k) arr t row w = v := by
  simp [memWord, putMem]

/-- A correction names one of the eight words of its row. -/
theorem mended_lt {k : Channel} {key i b : Nat} (h : rowOutcome k key = .mended (some i) b) : i < 8 := by
  unfold rowOutcome at h
  split at h
  · cases h
  · rename_i m _
    unfold decodeBlock at h
    simp only at h
    split at h
    · cases h
    · split at h
      · cases h
        by_cases h0 : (m.row.setWidth 8 : BitVec 8).toNat = 0
        · rw [h0]; decide
        · exact (Nat.log2_lt h0).2 (BitVec.isLt _)
      · split at h
        · cases h
        · split at h <;> cases h

/-- A write leaves the words of every other row. -/
theorem word_putMem_row (arr t row w : Nat) (v : Word) (k : Channel) {x : Nat} (h : x / 8 ≠ rowKey arr t row) (hw : w < 8) :
    Tab.word (putMem arr t row w v k).mem x = Tab.word k.mem x := by
  have hx : x ≠ rowKey arr t row * 8 + w := by omega
  simp only [putMem, Tab.word_putWord_ne _ _ hx, mendedMem]
  split
  · rename_i i b hb
    have := mended_lt hb
    exact Tab.word_putWord_ne _ _ (by omega)
  · rfl

end Sys2Proof.Machine
end

