-- ==== Sys2Proof/Laws/Ops.lean ====
section
/-! SUPPORT. What the shared operations can do, once each: counting and recording leave the state as it was but for the CT
fields and the channel's queues (`Noted`); the journal operations leave the channels; entries and their changes. -/

namespace Sys2Proof.Machine

-- ## Uncounted and Noted

theorem Uncounted.refl (k : Channel) : Uncounted k k := ⟨rfl, fun _ _ => rfl, fun _ _ => rfl⟩

theorem Uncounted.eq {k k' : Channel} (h : Uncounted k k') : k' = recount k k'.mem k'.rows k'.qBad k'.queues k'.owed := by
  have := congrArg (fun x => recount x k'.mem k'.rows k'.qBad k'.queues k'.owed) h.1
  exact this

theorem Uncounted.trans {k k' k'' : Channel} (h : Uncounted k k') (h' : Uncounted k' k'') : Uncounted k k'' := by
  refine ⟨?_, fun x hx => (h'.2.1 x hx).trans (h.2.1 x hx), fun x hx => (h'.2.2 x hx).trans (h.2.2 x hx)⟩
  exact (congrArg (fun x => recount x k.mem k.rows k.qBad k.queues k.owed) h'.1).trans h.1

/-- A change that neither reads nor writes what counting writes goes through it. -/
theorem Uncounted.map {k k' : Channel} (f : Channel → Channel)
    (hf : ∀ (k : Channel) m r b q o, f (recount k m r b q o) = recount (f k) m r b q o) (h : Uncounted k k') :
    Uncounted (f k) (f k') := by
  have hk : f k = recount (f k) k.mem k.rows k.qBad k.queues k.owed := hf k k.mem k.rows k.qBad k.queues k.owed
  have hk' : f k' = recount (f k) k'.mem k'.rows k'.qBad k'.queues k'.owed :=
    (congrArg f h.eq).trans (hf ..)
  have hm : (f k).mem = k.mem := by rw [hk]; rfl
  have hr : (f k).rows = k.rows := by rw [hk]; rfl
  have hm' : (f k').mem = k'.mem := by rw [hk']; rfl
  have hr' : (f k').rows = k'.rows := by rw [hk']; rfl
  refine ⟨?_, fun x hx => ?_, fun x hx => ?_⟩
  · rw [hk']; rfl
  · rw [hm, hm']; exact h.2.1 x hx
  · rw [hr, hr']; exact h.2.2 x hx

theorem Noted.refl (c : Ch) (s : State) : Noted c s s := ⟨rfl, fun _ _ => rfl, .refl _⟩

theorem Noted.trans {c : Ch} {s t u : State} (h : Noted c s t) (h' : Noted c t u) : Noted c s u := by
  refine ⟨?_, fun d hd => (h'.2.1 d hd).trans (h.2.1 d hd), h.2.2.trans h'.2.2⟩
  have := congrArg (fun x : State => { x with chans := s.chans, ct := s.ct }) h'.1
  exact (show ({ u with chans := s.chans, ct := s.ct } : State) = { t with chans := s.chans, ct := s.ct } from this).trans h.1

/-- A change of the channel that does not meet what counting writes goes through it. -/
theorem Noted.modCh {c : Ch} {s t : State} (f : Channel → Channel)
    (hf : ∀ (k : Channel) m r b q o, f (recount k m r b q o) = recount (f k) m r b q o) (h : Noted c s t) :
    Noted c (modCh c f s) (modCh c f t) := by
  refine ⟨?_, fun d hd => ?_, ?_⟩
  · have := congrArg (fun x : State => { x with chans := (Machine.modCh c f s).chans }) h.1
    exact this
  · rw [ch_modCh_ne _ _ _ hd, ch_modCh_ne _ _ _ hd]; exact h.2.1 d hd
  · rw [ch_modCh_self, ch_modCh_self]; exact h.2.2.map f hf

/-- A change of a channel that only counting could have made. -/
theorem Noted.of_modCh {c : Ch} {s : State} (f : Channel → Channel) (hf : Uncounted (ch s c) (f (ch s c))) :
    Noted c s (Machine.modCh c f s) :=
  ⟨rfl, fun d hd => ch_modCh_ne s c f hd, by rw [ch_modCh_self]; exact hf⟩

/-- A noted change and one more that only counting could have made. -/
theorem Noted.then_modCh {c : Ch} {s t : State} (f : Channel → Channel) (h : Noted c s t)
    (hf : Uncounted (ch t c) (f (ch t c))) : Noted c s (Machine.modCh c f t) := h.trans (.of_modCh f hf)

theorem Noted.then_ct {c : Ch} {s t : State} (x : Tab Word) (h : Noted c s t) : Noted c s { t with ct := x } :=
  h.trans ⟨rfl, fun _ _ => rfl, .refl _⟩
theorem noted_ctAdd (c : Ch) (a lo n m : Nat) (s : State) : Noted c s (ctAdd a lo n m s) := (Noted.refl c s).then_ct _
theorem noted_ctAddSat (c : Ch) (a lo n m : Nat) (s : State) : Noted c s (ctAddSat a lo n m s) :=
  (Noted.refl c s).then_ct _

/-- Writing a record's slot changes nothing but the queue memory. -/
theorem uncounted_putSlot (s : State) (c : Ch) (n : Nat) (ws : List Word) (k : Channel) : Uncounted k (putSlot s c n ws k) := by
  have hrow : n % 16384 / 2 < 8192 := by omega
  refine ⟨rfl, fun x hx => ?_, fun x hx => ?_⟩
  · have : ∀ (l : List Nat), (∀ w ∈ l, w < 4) → ∀ m : Tab Word,
        Tab.word (l.foldl (fun m w => Tab.putWord m (rowKey 9 0 (n % 16384 / 2) * 8 + n % 2 * 4 + w) (ws.getD w 0)) m) x =
          Tab.word m x := by
      intro l
      induction l with
      | nil => intros; rfl
      | cons w r ih =>
        intro hl m
        rw [List.foldl_cons, ih (fun v hv => hl v (.tail _ hv))]
        refine Tab.word_putWord_ne _ _ ?_
        have := hl w (.head _)
        intro he
        apply hx
        rw [he, rowKey]
        omega
    exact this _ (by simp) _
  · refine Tab.get?_put_ne _ _ ?_
    intro he
    apply hx
    rw [he, rowKey]
    omega

theorem Noted.then_modQueue {c : Ch} {s t : State} (q : Nat) (f : Queue → Queue) (h : Noted c s t) :
    Noted c s (modQueue c q f t) := h.then_modCh _ ⟨rfl, fun _ _ => rfl, fun _ _ => rfl⟩

/-- Writing a record is only noted. -/
theorem noted_recordAs (n : Nat) (c : Ch) (q p typ : Nat) (ws : List Word) (b : Bool) (s : State) :
    Noted c s (recordAs n c q p typ ws b s) := by
  unfold recordAs
  split
  · exact .refl ..
  · simp only
    split
    · exact noted_ctAddSat ..
    · apply Noted.then_modQueue
      apply Noted.then_modCh
      · split
        · exact noted_ctAddSat ..
        · exact .refl ..
      · exact uncounted_putSlot ..

theorem noted_record (c : Ch) (q p typ : Nat) (ws : List Word) (b : Bool) (s : State) :
    Noted c s (record c q p typ ws b s) := noted_recordAs ..

theorem Noted.then_record {c : Ch} {s t : State} (q p typ : Nat) (ws : List Word) (b : Bool) (h : Noted c s t) :
    Noted c s (record c q p typ ws b t) := h.trans (noted_record ..)

theorem noted_bump (c : Ch) (e amt : Nat) (o : Occ) (k : Nat) (s : State) : Noted c s (bump c e amt o k s) := by
  unfold bump
  simp only
  split
  · exact ((Noted.refl c s).then_ct _).then_modCh _ ⟨rfl, fun _ _ => rfl, fun _ _ => rfl⟩
  · exact (Noted.refl c s).then_ct _

theorem noted_foldl {α : Type} (c : Ch) (f : State → α → State) (hf : ∀ u a, Noted c u (f u a)) (l : List α) (s : State) :
    Noted c s (l.foldl f s) := by
  induction l generalizing s with
  | nil => exact .refl ..
  | cons a r ih => exact (hf s a).trans (ih _)

theorem noted_forEach {α : Type} (c : Ch) (l : List α) (f : α → State → State) (hf : ∀ a u, Noted c u (f a u)) (s : State) :
    Noted c s (forEach l f s) := noted_foldl c _ (fun u a => hf a u) l s

/-- Counting is only noted. -/
theorem noted_countAll (c : Ch) (e : Nat) (qs : List Nat) (amt : Nat) (o : Occ) (s : State) :
    Noted c s (countAll c e qs amt o s) := by
  unfold countAll
  split
  · exact .refl ..
  · exact noted_foldl c _ (fun u k => noted_bump ..) _ s

theorem noted_count (c : Ch) (e : Nat) (q : Option Nat) (amt : Nat) (o : Occ) (s : State) :
    Noted c s (count c e q amt o s) := noted_countAll ..

theorem noted_ev (c : Ch) (e : Nat) (q : Option Nat) (o : Occ) (s : State) : Noted c s (ev c e q o s) := noted_count ..

theorem Noted.then_count {c : Ch} {s t : State} (e : Nat) (q : Option Nat) (amt : Nat) (o : Occ) (h : Noted c s t) :
    Noted c s (count c e q amt o t) := h.trans (noted_count ..)
theorem Noted.then_ev {c : Ch} {s t : State} (e : Nat) (q : Option Nat) (o : Occ) (h : Noted c s t) :
    Noted c s (ev c e q o t) := h.trans (noted_ev ..)

/-- Giving owed samples their request is only noted, and so is writing those that have one. -/
theorem noted_paySamples (c : Ch) (o : Occ) (w : Word) (s : State) : Noted c s (paySamples c o w s) :=
  .of_modCh _ ⟨rfl, fun _ _ => rfl, fun _ _ => rfl⟩

theorem noted_writeSamples (c : Ch) (s : State) : Noted c s (writeSamples c s) := by
  unfold writeSamples
  refine Noted.trans (.of_modCh _ ⟨rfl, fun _ _ => rfl, fun _ _ => rfl⟩) (noted_forEach c _ _ (fun x u => ?_) _)
  split
  · exact noted_record ..
  · exact .refl ..

/-- A protocol error is counted and recorded. -/
theorem noted_protocolError (c : Ch) (cause port : Nat) (op : BitVec 6) (l : LAddr) (a : AgentId) (i : InstId) (tag : Tag)
    (o : Occ) (s : State) : Noted c s (protocolError c cause port op l a i tag o s) :=
  (noted_record ..).then_ev ..

-- ## What a noted change leaves, to cite

theorem Noted.fields {c : Ch} {s t : State} (h : Noted c s t) : t = { s with chans := t.chans, ct := t.ct } := by
  exact congrArg (fun x : State => { x with chans := t.chans, ct := t.ct }) h.1

theorem Noted.tick {c : Ch} {s t : State} (h : Noted c s t) : t.tick = s.tick := by rw [h.fields]
theorem Noted.pclk {c : Ch} {s t : State} (h : Noted c s t) : t.pclk = s.pclk := by rw [h.fields]
theorem Noted.pending {c : Ch} {s t : State} (h : Noted c s t) : t.pending = s.pending := by rw [h.fields]
theorem Noted.app {c : Ch} {s t : State} (h : Noted c s t) : t.app = s.app := by rw [h.fields]

/-- The tiles of a channel under a noted change. -/
theorem Noted.tile {c : Ch} {s t : State} (h : Noted c s t) (d : Ch) (b : TileId) : Machine.tile t d b = Machine.tile s d b := by
  by_cases hd : d = c
  · subst hd
    have : (recount (ch t d) (ch s d).mem (ch s d).rows (ch s d).qBad (ch s d).queues (ch s d).owed).tiles =
      (ch s d).tiles := by rw [h.2.2.1]
    replace this : (ch t d).tiles = (ch s d).tiles := this
    simp only [Machine.tile, this]
  · simp only [Machine.tile, h.2.1 d hd]

/-- The words a lookup reads under a noted change. -/
theorem Noted.memWord {c : Ch} {s t : State} (h : Noted c s t) (d : Ch) {arr b row w : Nat} (ha : arr ≠ 9) (hb : b < 16)
    (hr : row < 8192) (hw : w < 8) : memWord (ch t d) arr b row w = memWord (ch s d) arr b row w := by
  by_cases hd : d = c
  · subst hd
    refine h.2.2.2.1 _ ?_
    have : (rowKey arr b row * 8 + w) / 8 = rowKey arr b row := by omega
    rw [this, rowKey_arr hb hr]
    exact ha
  · rw [h.2.1 d hd]

/-- The row states a lookup reads under a noted change. -/
theorem Noted.rowOutcome {c : Ch} {s t : State} (h : Noted c s t) (d : Ch) {arr b row : Nat} (ha : arr ≠ 9) (hb : b < 16)
    (hr : row < 8192) : rowOutcome (ch t d) (rowKey arr b row) = rowOutcome (ch s d) (rowKey arr b row) := by
  by_cases hd : d = c
  · subst hd
    unfold Machine.rowOutcome
    rw [h.2.2.2.2 _ (by rw [rowKey_arr hb hr]; exact ha)]
  · rw [h.2.1 d hd]

-- ## The journal

@[simp] theorem jPut_chans (n : Nat) (e : JEntry) (s : State) : (jPut n e s).chans = s.chans := rfl

/-- Setting the state of an entry changes nothing but the journal. -/
theorem jSet_chans (n : Nat) (st : JState) (s : State) : (jSet n st s).chans = s.chans := by
  unfold jSet
  simp only
  split
  · rfl
  · split <;> rfl

/-- Ending an entry changes nothing but the journal. -/
theorem jEnd_chans (n : Nat) (st : JState) (r d : Nat) (s : State) : (jEnd n st r d s).chans = s.chans := by
  unfold jEnd
  simp only
  split
  · rfl
  · split <;> rfl

-- ## Clear-sky updates and the gasket of VRS

/-- With no clear-sky update due by the edge, the edge lands none. -/
theorem landBy_idle {s : State} {c : Ch} {now : Nat} (h : ∀ d ∈ (ch s c).landings, now < d.edge) : landBy c now s = s := by
  have none_due : (ch s c).landings.filter (fun d => decide (d.edge ≤ now)) = [] := by
    rw [List.filter_eq_nil_iff]
    intro d hd
    have := h d hd
    simp; omega
  have all_kept : (ch s c).landings.filter (fun d => decide (now < d.edge)) = (ch s c).landings :=
    List.filter_eq_self.2 fun d hd => by simpa using h d hd
  have same : modCh c (fun k => { k with landings := k.landings.filter fun d => decide (now < d.edge) }) s = s := by
    simp only [modCh]
    simp only [ch] at all_kept
    rw [all_kept]
    exact (by simp : ({ s with chans := s.chans.set c.val s.chans[c.val] } : State) = s)
  simp only [landBy, none_due, same]
  rfl
/-- A packet of a live requester joins the gasket of VRS. -/
theorem vrsIn_live {s : State} {c : Ch} {p : EgrPkt} (h : agentDead (ch s c) p.hdr.agent = false) :
    vrsIn c p s = modCh c (push .vrs p) s := by simp [vrsIn, h]

-- ## Entries

/-- Changing an entry that is in use. -/
theorem entry_modEntry {c : Ch} {b : TileId} {n : Nat} {f : Entry → Entry} {s : State} {e : Entry}
    (h : entry? (tile s c b) n = some e) : entry? (tile (modEntry c b n f s) c b) n = some (f e) := by
  simp only [modEntry, h]
  simp [entry?]

/-- Changing another entry of the tile. -/
theorem entry_modEntry_ne {c : Ch} {b : TileId} {n m : Nat} {f : Entry → Entry} {s : State} (h : m ≠ n) :
    entry? (tile (modEntry c b n f s) c b) m = entry? (tile s c b) m := by
  unfold modEntry
  split
  · rfl
  · simp [entry?, Tab.get?_put_ne _ _ h]

/-- Changing an entry leaves the other channels. -/
theorem ch_modEntry_ne {c d : Ch} (b : TileId) (n : Nat) (f : Entry → Entry) (s : State) (h : d ≠ c) :
    ch (modEntry c b n f s) d = ch s d := by
  unfold modEntry
  split
  · rfl
  · exact ch_modTile_ne s c b _ h

end Sys2Proof.Machine
end

