-- ==== Sys2Proof/Laws/PerInstr.lean ====
section
/-! SUPPORT. One lemma per command: a well-formed command has its operands in the ranges the spec gives them. -/

namespace Sys2Proof.Laws.WellFormed

open Sys2Proof

/-- The operands of a command that its types do not bound lie in the ranges the spec gives: 16 channels of 17 loops (Table 4-4),
16 slots and five stops of a ring (R265), 160 entries of a tracker (R207), the rows of Table 21-7, and the opcodes that Table
3-3 does not list for a port. -/
def inRange : Instr → Prop
  | .barometerTick _ r => r.length = 16 ∧ ∀ x ∈ r, x.length = 17
  | .flitHop _ _ bad => ∀ p ∈ bad, p < 16
  | .resend _ _ i => i < 5
  | .injectionClaim _ _ i => i < 5
  | .trackerEntryRelease _ _ n => n < 160
  | .shadowRebuild _ _ ctx x => x.row < if ctx then 320 else 80
  | .broadcastInvalidation _ _ ext row => row < if ext then 256 else 8192
  | .irqInvalidOpcode _ _ o => o.toNat = 0 ∨ 0x0C < o.toNat
  | .inboundInvalidOpcode _ p _ o => match p with
    | .sni => o.toNat < 0x28 ∨ 0x2C < o.toNat
    | .din => o ≠ 0x30 ∧ o ≠ 0x31
    | .mrs => o.toNat < 0x3D
  | _ => True

/-- A well-formed command has its operands in range. -/
def Statement (i : Instr) : Prop := i.wf = true → inRange i

theorem rdShd (c : Ch) (r : ReqIn) : Statement (.rdShd c r) := fun _ => trivial
theorem rdOwn (c : Ch) (r : ReqIn) : Statement (.rdOwn c r) := fun _ => trivial
theorem rdAny (c : Ch) (r : ReqIn) : Statement (.rdAny c r) := fun _ => trivial
theorem rdCur (c : Ch) (r : ReqIn) : Statement (.rdCur c r) := fun _ => trivial
theorem rdSpec (c : Ch) (r : ReqIn) : Statement (.rdSpec c r) := fun _ => trivial
theorem upgrade (c : Ch) (r : ReqIn) : Statement (.upgrade c r) := fun _ => trivial
theorem invAll (c : Ch) (r : ReqIn) : Statement (.invAll c r) := fun _ => trivial
theorem wrFull (c : Ch) (r : ReqIn) : Statement (.wrFull c r) := fun _ => trivial
theorem wrPtl (c : Ch) (r : ReqIn) : Statement (.wrPtl c r) := fun _ => trivial
theorem atomic (c : Ch) (r : ReqIn) : Statement (.atomic c r) := fun _ => trivial
theorem evict (c : Ch) (r : ReqIn) : Statement (.evict c r) := fun _ => trivial
theorem biConflict (c : Ch) (r : ReqIn) : Statement (.biConflict c r) := fun _ => trivial
theorem rspI (c : Ch) (r : RspIn) : Statement (.rspI c r) := fun _ => trivial
theorem rspS (c : Ch) (r : RspIn) : Statement (.rspS c r) := fun _ => trivial
theorem rspE (c : Ch) (r : RspIn) : Statement (.rspE c r) := fun _ => trivial
theorem rspID (c : Ch) (r : RspIn) : Statement (.rspID c r) := fun _ => trivial
theorem rspSD (c : Ch) (r : RspIn) : Statement (.rspSD c r) := fun _ => trivial
theorem wdata (c : Ch) (d : DataIn) : Statement (.wdata c d) := fun _ => trivial
theorem sdata (c : Ch) (d : DataIn) : Statement (.sdata c d) := fun _ => trivial
theorem memFill (c : Ch) (d : DataIn) : Statement (.memFill c d) := fun _ => trivial
theorem memRmw (c : Ch) (d : DataIn) : Statement (.memRmw c d) := fun _ => trivial
theorem memAtomRes (c : Ch) (d : DataIn) : Statement (.memAtomRes c d) := fun _ => trivial
theorem egressCrossing (c : Ch) (p : EgrPort) (gap : Nat) : Statement (.egressCrossing c p gap) := fun _ => trivial
theorem egressStall (c : Ch) (p : EgrPort) : Statement (.egressStall c p) := fun _ => trivial
theorem engineDispatch (c : Ch) (t : TileId) : Statement (.engineDispatch c t) := fun _ => trivial
theorem bankPortGrant (c : Ch) (t : TileId) (b : Bank) : Statement (.bankPortGrant c t b) := fun _ => trivial
theorem move (c : Ch) (t : TileId) (odd : Bool) (dst : Fin 16) (val : Word) : Statement (.move c t odd dst val) := fun _ => trivial
theorem dirRd (c : Ch) (t : TileId) (odd : Bool) : Statement (.dirRd c t odd) := fun _ => trivial
theorem dirWr (c : Ch) (t : TileId) (odd : Bool) (way : Fin 16) : Statement (.dirWr c t odd way) := fun _ => trivial
theorem lcAcc (c : Ch) (t : TileId) (odd : Bool) : Statement (.lcAcc c t odd) := fun _ => trivial
theorem snoop (c : Ch) (t : TileId) (odd : Bool) : Statement (.snoop c t odd) := fun _ => trivial
theorem memreq (c : Ch) (t : TileId) (odd : Bool) : Statement (.memreq c t odd) := fun _ => trivial
theorem send (c : Ch) (t : TileId) (odd : Bool) : Statement (.send c t odd) := fun _ => trivial
theorem wait (c : Ch) (t : TileId) (odd : Bool) : Statement (.wait c t odd) := fun _ => trivial
theorem branch (c : Ch) (t : TileId) (odd : Bool) (taken : Bool) : Statement (.branch c t odd taken) := fun _ => trivial
theorem tracker (c : Ch) (t : TileId) (odd : Bool) (op : TrkOp) : Statement (.tracker c t odd op) := fun _ => trivial
theorem endFlow (c : Ch) (t : TileId) (odd : Bool) : Statement (.endFlow c t odd) := fun _ => trivial
theorem illegalMicroword (c : Ch) (t : TileId) (odd : Bool) : Statement (.illegalMicroword c t odd) := fun _ => trivial
theorem trackerEntryRelease (c : Ch) (t : TileId) (n : Nat) : Statement (.trackerEntryRelease c t n) := by simp [Statement, inRange, Instr.wf]
theorem anchorLapse (c : Ch) (agent : AgentId) : Statement (.anchorLapse c agent) := fun _ => trivial
theorem engineHoldCutoff (c : Ch) (t : TileId) (odd : Bool) : Statement (.engineHoldCutoff c t odd) := fun _ => trivial
theorem bankHoldCutoff (c : Ch) (t : TileId) (b : Bank) : Statement (.bankHoldCutoff c t b) := fun _ => trivial
theorem starvationOnset (c : Ch) (t : TileId) (engine : Bool) (cls : Fin 9) : Statement (.starvationOnset c t engine cls) := fun _ => trivial
theorem wdataTimeout (c : Ch) (agent : AgentId) (tag : Tag) (laddr : LAddr) : Statement (.wdataTimeout c agent tag laddr) := fun _ => trivial
theorem snoopTimeout (c : Ch) (home : Tag) (agent : AgentId) (laddr : LAddr) : Statement (.snoopTimeout c home agent laddr) := fun _ => trivial
theorem memTimeout (c : Ch) (home : Tag) : Statement (.memTimeout c home) := fun _ => trivial
theorem mrsReservationEnd (c : Ch) (home : Tag) : Statement (.mrsReservationEnd c home) := fun _ => trivial
theorem flitHop (c : Ch) (r : Fin 8) (bad : List Nat) : Statement (.flitHop c r bad) := by simp [Statement, inRange, Instr.wf]
theorem resend (c : Ch) (r : Fin 8) (stop : Nat) : Statement (.resend c r stop) := by simp [Statement, inRange, Instr.wf]
theorem injectionClaim (c : Ch) (r : Fin 8) (stop : Nat) : Statement (.injectionClaim c r stop) := by simp [Statement, inRange, Instr.wf]
theorem slotFrameStart (c : Ch) (r : Fin 8) : Statement (.slotFrameStart c r) := fun _ => trivial
theorem barometerTick (gap : TickIn) (readings : List (List (BitVec 12))) : Statement (.barometerTick gap readings) := by simp [Statement, inRange, Instr.wf]
theorem pclkWindowEnd (c : Ch) : Statement (.pclkWindowEnd c) := fun _ => trivial
theorem aliveToggle (c : Ch) : Statement (.aliveToggle c) := fun _ => trivial
theorem adAliveTransition (k : Fin 128) : Statement (.adAliveTransition k) := fun _ => trivial
theorem mcAliveTransition (c : Ch) : Statement (.mcAliveTransition c) := fun _ => trivial
theorem adapterLost (k : Fin 128) : Statement (.adapterLost k) := fun _ => trivial
theorem mcLost (c : Ch) : Statement (.mcLost c) := fun _ => trivial
theorem coldResetAssert : Statement .coldResetAssert := fun _ => trivial
theorem coldResetRelease : Statement .coldResetRelease := fun _ => trivial
theorem warmResetAssert : Statement .warmResetAssert := fun _ => trivial
theorem warmResetRelease : Statement .warmResetRelease := fun _ => trivial
theorem gaugeLeak (c : Ch) (g : Fin 8) : Statement (.gaugeLeak c g) := fun _ => trivial
theorem wayCountDecay (c : Ch) (t : TileId) (w : Fin 16) : Statement (.wayCountDecay c t w) := fun _ => trivial
theorem scrubStep (who : Scrubber) : Statement (.scrubStep who) := fun _ => trivial
theorem engineWatchdog (c : Ch) (t : TileId) (x : EngineCheck) : Statement (.engineWatchdog c t x) := fun _ => trivial
theorem engineFailover (c : Ch) (t : TileId) (odd : Bool) : Statement (.engineFailover c t odd) := fun _ => trivial
theorem shadowRebuild (c : Ch) (t : TileId) (ctxArray : Bool) (x : ShadowRow) :
    Statement (.shadowRebuild c t ctxArray x) := by
  cases ctxArray <;> simp [Statement, inRange, Instr.wf]
theorem stewardRollback (c : Ch) (run : StewardRun) : Statement (.stewardRollback c run) := fun _ => trivial
theorem recoveryWatchdog (c : Ch) : Statement (.recoveryWatchdog c) := fun _ => trivial
theorem ringRetirement (c : Ch) (r : Fin 8) : Statement (.ringRetirement c r) := fun _ => trivial
theorem broadcastInvalidation (c : Ch) (t : TileId) (ext : Bool) (row : Nat) : Statement (.broadcastInvalidation c t ext row) := by
  cases ext <;> simp [Statement, inRange, Instr.wf]
theorem reclaimStep (c : Ch) (t : TileId) : Statement (.reclaimStep c t) := fun _ => trivial
theorem maintStep (c : Ch) (t : TileId) (job : Nat) : Statement (.maintStep c t job) := fun _ => trivial
theorem quietPoint (c : Ch) : Statement (.quietPoint c) := fun _ => trivial
theorem snapshotEdge : Statement .snapshotEdge := fun _ => trivial
theorem gateNoticeWindowEnd (c : Ch) : Statement (.gateNoticeWindowEnd c) := fun _ => trivial
theorem gateSwapDone (c : Ch) : Statement (.gateSwapDone c) := fun _ => trivial
theorem holdLapse (slot : Fin 64) : Statement (.holdLapse slot) := fun _ => trivial
theorem holdGranted (slot : Fin 64) : Statement (.holdGranted slot) := fun _ => trivial
theorem rawHoldLapse (c : Ch) : Statement (.rawHoldLapse c) := fun _ => trivial
theorem queueMoveEnd (c : Ch) (q : Fin 256) : Statement (.queueMoveEnd c q) := fun _ => trivial
theorem queueFlushBoundary (c : Ch) (q : Fin 256) : Statement (.queueFlushBoundary c q) := fun _ => trivial
theorem instanceQuiesced (i : InstId) : Statement (.instanceQuiesced i) := fun _ => trivial
theorem drainQuiesced (c : Ch) : Statement (.drainQuiesced c) := fun _ => trivial
theorem drainLimitPassed (c : Ch) : Statement (.drainLimitPassed c) := fun _ => trivial
theorem channelClamp (c : Ch) : Statement (.channelClamp c) := fun _ => trivial
theorem ddSettleElapsed (c : Ch) : Statement (.ddSettleElapsed c) := fun _ => trivial
theorem channelPowerUp (c : Ch) : Statement (.channelPowerUp c) := fun _ => trivial
theorem channelResetDone (c : Ch) (test : StartUp) : Statement (.channelResetDone c test) := fun _ => trivial
theorem poolAccessReissue (c : Ch) : Statement (.poolAccessReissue c) := fun _ => trivial
theorem registerWrite (ctx : Ctx) (addr : HpAddr) (value : Word) : Statement (.registerWrite ctx addr value) := fun _ => trivial
theorem updCmd (ctx : Ctx) (groups : BitVec 32) : Statement (.updCmd ctx groups) := fun _ => trivial
theorem snapCmd (ctx : Ctx) (channels : BitVec 16) (block : Bool) : Statement (.snapCmd ctx channels block) := fun _ => trivial
theorem pageLock (ctx : Ctx) (page : HpAddr) (value : Word) : Statement (.pageLock ctx page value) := fun _ => trivial
theorem acquire (ctx : Ctx) (base : LAddr) (sizeLog2 : BitVec 6) (lease : BitVec 10) : Statement (.acquire ctx base sizeLog2 lease) := fun _ => trivial
theorem renew (ctx : Ctx) (slot : BitVec 6) (lease : BitVec 10) : Statement (.renew ctx slot lease) := fun _ => trivial
theorem release (ctx : Ctx) (slot : BitVec 6) : Statement (.release ctx slot) := fun _ => trivial
theorem breakHold (ctx : Ctx) (slot : BitVec 6) : Statement (.breakHold ctx slot) := fun _ => trivial
theorem imgCmd (ctx : Ctx) (channels : BitVec 16) : Statement (.imgCmd ctx channels) := fun _ => trivial
theorem imgAbort (ctx : Ctx) : Statement (.imgAbort ctx) := fun _ => trivial
theorem imgData (ctx : Ctx) (beat : Word) : Statement (.imgData ctx beat) := fun _ => trivial
theorem imgDigest (ctx : Ctx) (k : Fin 6) (value : Word) : Statement (.imgDigest ctx k value) := fun _ => trivial
theorem arbPrio (ctx : Ctx) (c : Ch) (levels : BitVec 27) : Statement (.arbPrio ctx c levels) := fun _ => trivial
theorem disable (ctx : Ctx) (c : Ch) : Statement (.disable ctx c) := fun _ => trivial
theorem enable (ctx : Ctx) (c : Ch) : Statement (.enable ctx c) := fun _ => trivial
theorem clean (ctx : Ctx) (c : Ch) (base : LAddr) (sizeLog2 : BitVec 6) (all : Bool) : Statement (.clean ctx c base sizeLog2 all) := fun _ => trivial
theorem invalidate (ctx : Ctx) (c : Ch) (base : LAddr) (sizeLog2 : BitVec 6) (all : Bool) : Statement (.invalidate ctx c base sizeLog2 all) := fun _ => trivial
theorem cleanInvalidate (ctx : Ctx) (c : Ch) (base : LAddr) (sizeLog2 : BitVec 6) (all : Bool) : Statement (.cleanInvalidate ctx c base sizeLog2 all) := fun _ => trivial
theorem tgSwap (ctx : Ctx) (c : Ch) (bank : Bool) (groupSync : Bool) : Statement (.tgSwap ctx c bank groupSync) := fun _ => trivial
theorem tgLock (ctx : Ctx) (c : Ch) (bits : BitVec 32) : Statement (.tgLock ctx c bits) := fun _ => trivial
theorem retireSlot (ctx : Ctx) (c : Ch) (t : TileId) (set : BitVec 11) (way : BitVec 4) : Statement (.retireSlot ctx c t set way) := fun _ => trivial
theorem retireSet (ctx : Ctx) (c : Ch) (t : TileId) (set : BitVec 11) : Statement (.retireSet ctx c t set) := fun _ => trivial
theorem retirePage (ctx : Ctx) (c : Ch) (page : BitVec 40) : Statement (.retirePage ctx c page) := fun _ => trivial
theorem fence (ctx : Ctx) (c : Ch) : Statement (.fence ctx c) := fun _ => trivial
theorem queueFlush (ctx : Ctx) (c : Ch) (q : Fin 256) (prios : BitVec 4) : Statement (.queueFlush ctx c q prios) := fun _ => trivial
theorem qPop (ctx : Ctx) (c : Ch) (q : Fin 256) : Statement (.qPop ctx c q) := fun _ => trivial
theorem jrnWindowRead (ctx : Ctx) (slot : Fin 8) (word : Fin 4) : Statement (.jrnWindowRead ctx slot word) := fun _ => trivial
theorem jrnCur (ctx : Ctx) (k : Fin 16) (value : Word) : Statement (.jrnCur ctx k value) := fun _ => trivial
theorem create (ctx : Ctx) (inst : InstId) (group : BitVec 5) (sync : Bool) : Statement (.create ctx inst group sync) := fun _ => trivial
theorem quiesce (ctx : Ctx) (inst : InstId) : Statement (.quiesce ctx inst) := fun _ => trivial
theorem resume (ctx : Ctx) (inst : InstId) (group : BitVec 5) (sync : Bool) : Statement (.resume ctx inst group sync) := fun _ => trivial
theorem flush (ctx : Ctx) (inst : InstId) (sizeLog2 : BitVec 6) (base : LAddr) : Statement (.flush ctx inst sizeLog2 base) := fun _ => trivial
theorem freeze (ctx : Ctx) (inst : InstId) : Statement (.freeze ctx inst) := fun _ => trivial
theorem thaw (ctx : Ctx) (inst : InstId) (group : BitVec 5) (sync : Bool) : Statement (.thaw ctx inst group sync) := fun _ => trivial
theorem save (ctx : Ctx) (inst : InstId) : Statement (.save ctx inst) := fun _ => trivial
theorem restore (ctx : Ctx) (inst : InstId) : Statement (.restore ctx inst) := fun _ => trivial
theorem instanceReset (ctx : Ctx) (inst : InstId) : Statement (.instanceReset ctx inst) := fun _ => trivial
theorem remove (ctx : Ctx) (inst : InstId) : Statement (.remove ctx inst) := fun _ => trivial
theorem declareDead (ctx : Ctx) (agent : AgentId) : Statement (.declareDead ctx agent) := fun _ => trivial
theorem admitAgent (ctx : Ctx) (agent : AgentId) : Statement (.admitAgent ctx agent) := fun _ => trivial
theorem drain (ctx : Ctx) (c : Ch) : Statement (.drain ctx c) := fun _ => trivial
theorem up (ctx : Ctx) (c : Ch) : Statement (.up ctx c) := fun _ => trivial
theorem gate (ctx : Ctx) (c : Ch) : Statement (.gate ctx c) := fun _ => trivial
theorem off (ctx : Ctx) (c : Ch) : Statement (.off ctx c) := fun _ => trivial
theorem bankGate (ctx : Ctx) (c : Ch) (t : TileId) : Statement (.bankGate ctx c t) := fun _ => trivial
theorem bankUp (ctx : Ctx) (c : Ch) (t : TileId) : Statement (.bankUp ctx c t) := fun _ => trivial
theorem chRst (ctx : Ctx) (c : Ch) : Statement (.chRst ctx c) := fun _ => trivial
theorem enter (ctx : Ctx) (c : Ch) (t : TileId) (b : Bank) : Statement (.enter ctx c t b) := fun _ => trivial
theorem exit (ctx : Ctx) (c : Ch) (t : TileId) (b : Bank) : Statement (.exit ctx c t b) := fun _ => trivial
theorem dgRd (ctx : Ctx) (c : Ch) : Statement (.dgRd ctx c) := fun _ => trivial
theorem dgWr (ctx : Ctx) (c : Ch) : Statement (.dgWr ctx c) := fun _ => trivial
theorem read (ctx : Ctx) (c : Ch) : Statement (.read ctx c) := fun _ => trivial
theorem write (ctx : Ctx) (c : Ch) : Statement (.write ctx c) := fun _ => trivial
theorem irqInvalidOpcode (c : Ch) (r : ReqIn) (opcode : BitVec 6) : Statement (.irqInvalidOpcode c r opcode) := by
  simp only [Statement, inRange, Instr.wf, irqOpcode, Bool.not_eq_true', Bool.and_eq_false_iff, decide_eq_false_iff_not]
  omega
theorem inboundInvalidOpcode (c : Ch) (p : InPort) (r : RspIn) (opcode : BitVec 6) : Statement (.inboundInvalidOpcode c p r opcode) := by
  cases p <;> simp [Statement, inRange, Instr.wf, inboundOpcode]
theorem bankPowerUpDone (c : Ch) (t : TileId) : Statement (.bankPowerUpDone c t) := fun _ => trivial
theorem arbLevelsInForce (c : Ch) : Statement (.arbLevelsInForce c) := fun _ => trivial
theorem strobeDistributed : Statement .strobeDistributed := fun _ => trivial
theorem deniedRead (ctx : Ctx) (addr : HpAddr) : Statement (.deniedRead ctx addr) := fun _ => trivial

end Sys2Proof.Laws.WellFormed
end

