-- ==== Sys2Proof/Tests/Slice0.lean ====
section
/-! SUPPORT. Tests of the model on small states, and for every statement with hypotheses a state and operands that meet them. Every
expected value is worked out from the tables and rules of the spec named beside it. -/

namespace Sys2Proof.Tests

-- Elaborate one theorem after the other: run side by side they take a thread each.
set_option Elab.async false

open Sys2Proof Sys2Proof.Machine

-- ## Small states

/-- exec of a command answers a next state of which p holds. -/
def nx (i : Instr) (s : State) (p : State → Bool) : Bool :=
  match exec i s with
  | .next t => p t
  | _ => false
/-- The channel of the tests. -/
def C : Ch := 14
/-- A line of channel 14, tile 14 (R12, R13: region 14). -/
def L : LAddr := 896
/-- Another channel state. -/
def at0 (f : Channel → Channel) (s : State) : State := modCh C f s
/-- The channel is ON, its far side settled, and agent 12 listed as a CXL host (Table 20-3). -/
def onK (k : Channel) : Channel :=
  { k with pwr := .on, fence := false, startup := false, pclkValid := true, settled := true, copy := [(0x5100 + 8 * 6, 1)] }
/-- Region 0 of the channel's gate covers every line and grants every right (Table 11-5). -/
def rg : List (Nat × Word) :=
  [(addrC 14 0xB 0x100, BitVec.ofNat 64 (52 * 2 ^ 40 + 2 ^ 54)),
    (addrC 14 0xB 0x108, BitVec.ofNat 64 (2 ^ 25 + 2 ^ 24 + 0xFFFF * 2 ^ 26)), (addrC 14 0xB 0x110, 3)]
/-- Channel 14 is ON behind an open gate. -/
def s0 : State := at0 onK { State.reset with pclk := 1000, tick := 5000, app := rg, stg := rg }
/-- The channel in a power state. -/
def pw (p : Pwr) (s : State) : State := at0 (fun k => { k with pwr := p }) s
/-- Applied values. -/
def withApp (v : List (Nat × Word)) (s : State) : State := { s with app := v ++ s.app }
/-- An open journal entry for sequence number n; the next one is n + 1. -/
def withEntry (n : Nat) (st : JState) (s : State) : State :=
  { s with jrn := [(n, ⟨n, st, 0, 0, 0, 14, 0, 0, 100, 0, false⟩)], jrnNext := n + 1 }
/-- The entry withEntry puts there. -/
def je (n : Nat) (st : JState) : JEntry := ⟨n, st, 0, 0, 0, 14, 0, 0, 100, 0, false⟩
/-- Entry 0 of tile 14. -/
def withEnt (e : Entry) (s : State) : State := modTile C 14 (fun x => { x with ents := [(0, e)], gens := [(0, 1)] }) s
/-- Its flow holds the grant of a bank. -/
def granted (b : Bank) (s : State) : State := modTile C 14 (setGrant b (some ⟨0, none, 0⟩)) s
/-- A request for line L from agent 12 on IRQ_A. -/
def rq (sub : BitVec 7) : ReqIn := ⟨0, .a, 12, 0x77, L, 0, false, 0, sub, 0⟩
/-- The state a request of a test meets. -/
def p0 : State := passEdges 0 s0
-- ## Configuration (14)

/-- A command of CM register a has been accepted. -/
def took (a : Nat) (s t : State) : Bool :=
  t.jrnNext == s.jrnNext + 1 && Tab.get? t.cmSeq a == some s.jrnNext && t.rsp == some ⟨0, 0⟩
/-- An open request of agent 12 that waits for its verdict. -/
def oreq : OpenReq := ⟨0, some .a, .rdOwn, 12, 0x77, L, 0, 0, 990, true, false, false, false, false, 1⟩
-- ## Well-formed commands

theorem wf_barometerTick : Instr.wf (.barometerTick ⟨0, 0⟩ []) = false := by decide
theorem wf_flitHop : Instr.wf (.flitHop C 0 [16]) = false := by decide
theorem wf_resend : Instr.wf (.resend C 0 5) = false := by decide
theorem wf_injectionClaim : Instr.wf (.injectionClaim C 0 5) = false := by decide
theorem wf_trackerEntryRelease : Instr.wf (.trackerEntryRelease C 0 160) = false := by decide
theorem wf_shadowRebuild : Instr.wf (.shadowRebuild C 0 false ⟨80, false⟩) = false ∧
    Instr.wf (.shadowRebuild C 0 true ⟨320, false⟩) = false := by
  decide
theorem wf_broadcast : Instr.wf (.broadcastInvalidation C 0 false 8192) = false ∧
    Instr.wf (.broadcastInvalidation C 0 true 256) = false := by decide
theorem wf_irqInvalidOpcode : Instr.wf (.irqInvalidOpcode C (rq 0) 0x0C) = false := by decide
theorem wf_inboundInvalidOpcode : Instr.wf (.inboundInvalidOpcode C .din ⟨0, 12, 0, L⟩ 0x31) = false := by decide
theorem wf_holds : Instr.wf (.trackerEntryRelease C 0 159) = true ∧ Instr.wf (.irqInvalidOpcode C (rq 0) 0x0D) = true := by
  decide

-- ## The step, addresses, and the host port

/-- A step runs the command in front, and leaves the rest waiting; an empty queue idles. -/
theorem test_step : step { State.reset with pending := [.aliveToggle 3, .coldResetRelease] } =
    exec (.aliveToggle 3) { State.reset with pending := [.coldResetRelease] } ∧ step State.reset = .next State.reset :=
  ⟨rfl, rfl⟩
theorem witness_StepRunsFront : ({ State.reset with pending := [.aliveToggle 3] } : State).pending = .aliveToggle 3 :: [] := rfl
/-- A channel with one word in its array memory, and a command that waits. -/
def sWord : State := { at0 (fun k => { k with mem := [(7, 1)] }) s0 with pending := [.rdSpec C (rq 0)] }
theorem witness_StepKeepsMemory : (∀ c : Ch, Tab.wf (ch sWord c).mem = true) ∧
    (match step sWord with | .next t => (ch t C).mem == [(7, 1)] | _ => false) = true := by decide +kernel
/-- R285, R321: after reset no ring carries a flit, and every gauge is 0. -/
theorem test_reset : (∀ (r : Fin 8) (p : Fin 16), (((ch State.reset C).ring r).slot p.val).flit = none) ∧
    ∀ g : Fin 7, (ch State.reset C).gauges[g] = 0 := by decide +kernel
/-- No row of the table has bits. -/
theorem test_decodeTableWord : decodeTableWord 8 3 = none := by decide

/-- R12, R13: region 14 lies on channel 14 and tile 14; region 0x21 = 0b100001 folds to channel 0b0011 and, in strides of 5,
to tile 0b0000 (bits 0 and 5 cancel). -/
theorem test_folds : channelOf L = 14 ∧ tileOf L = 14 ∧ channelOf (0x21 * 64) = 3 ∧ tileOf (0x21 * 64) = 0 := by decide +kernel
theorem witness_SlotRoundTrip : (896 / 64 : Nat) < 2 ^ 27 ∧ ([12, 13, 14, 15] : List AgentId).length ≤ 4 := by decide
theorem witness_EncodingsRoundTrip : (⟨5, true, false, false, true, false⟩ : TagE).tag < 2 ^ 30 := by decide

theorem witness_TimeKept : Instr.aliveToggle 3 ≠ .coldResetAssert ∧ nx (.aliveToggle 3) State.reset (fun _ => true) = true := by
  decide +kernel
theorem test_barometerTick : nx (.barometerTick ⟨7, 0⟩ []) s0 (fun t => t.tick == 5001 && t.pclk == 1007) = true := by decide +kernel

/-- BLK_IDENT (Table 0-2). -/
theorem witness_BlkIdent : ReadReaches s0 15 0x40 ∧ WriteReaches s0 0 0x40 ∧
    nx (.deniedRead 15 0x40) s0 (fun t => t.rsp == some ⟨0, 0x4B4D011010111640⟩) = true := by decide +kernel
theorem witness_AccessAnswers : running s0 = true ∧ (0x44 : HpAddr).toNat % 8 ≠ 0 ∧ pageOf (0xFFF040 : HpAddr).toNat = none ∧
    pageDown (pw .gated s0) (.chan 14 4) = true ∧ pageOf (addrC 14 4 0x40) = some (.chan 14 4) ∧
    nx (.deniedRead 0 (BitVec.ofNat 24 (addrC 14 4 0x40))) (pw .gated s0) (fun t => t.rsp == some ⟨3, 0⟩) = true := by
  decide +kernel
/-- Context 5 may neither read nor write page 0x5 when its PG_CTL grants nothing. -/
def sDeny : State := withApp [(0x5010, 0x00010001)] s0
theorem witness_AccessAnswers_denied : running sDeny = true ∧ pageOf 0x5040 = some (.blk 5) ∧
    pageDown sDeny (.blk 5) = false ∧ (5 : Ctx) ≠ 0 ∧ (appWord sDeny ((Page.blk 5).base + 0x10)).getLsbD (16 + 5) = false ∧
    (appWord sDeny ((Page.blk 5).base + 0x10)).getLsbD 5 = false ∧
    nx (.deniedRead 5 0x5040) sDeny (fun t => t.rsp == some ⟨1, 0⟩ && bits (ctWord t 0x5030) 32 16 == 1) = true ∧
    nx (.registerWrite 5 0x5040 1) sDeny (fun t => t.rsp == some ⟨1, 0⟩ && bits (ctWord t 0x5030) 32 16 == 1) = true := by
  decide +kernel
/-- CS_CTL (Table 4-7). -/
theorem witness_StagedWrite : WriteReaches s0 0 (addrC 14 2 0x40) ∧ (regOf (addrC 14 2 0x40)).cf ≠ 0 ∧
    (regOf (addrC 14 2 0x40)).lk = 0 ∧ (regOf (addrC 14 2 0x40)).ct = 0 ∧ (regOf (addrC 14 2 0x40)).cm = 0 ∧
    (regOf (addrC 14 2 0x40)).wo = 0 ∧
    nx (.registerWrite 0 (BitVec.ofNat 24 (addrC 14 2 0x40)) 0) s0 (fun t =>
      stgWord t (addrC 14 2 0x40) == 0 && appWord t (addrC 14 2 0x40) == 1) = true := by decide +kernel
/-- SPAN of the clear-sky page of channel 14: the first offset beyond it, and the last of the first view. -/
theorem witness_BeyondSpan : WriteReaches s0 0 (addrC 14 2 0x7F8) ∧ ReadReaches s0 0 (addrC 14 2 0x7F8) ∧
    pageOf (addrC 14 2 0x7F8) = some (.chan 14 2) ∧ 0x40 + (Page.chan 14 2).cap / 0x10000 ≤ addrC 14 2 0x7F8 % 0x1000 ∧
    addrC 14 2 (0x40 + (Page.chan 14 2).cap / 0x10000) % 0x1000 < 0x800 ∧
    nx (.registerWrite 0 (BitVec.ofNat 24 (addrC 14 2 (0x40 + (Page.chan 14 2).cap / 0x10000))) 1) s0 (fun t => t.stg == s0.stg) = true := by
  decide +kernel
theorem witness_StrobeStarts : WriteReaches s0 0 0x1040 ∧ s0.strobe = none ∧ (1 : BitVec 32) ≠ 0 ∧ servingMask s0 ≠ 0 ∧
    (∀ o ∈ s0.instOps, o.sync = none) ∧
    nx (.updCmd 0 1) s0 (fun t => took 0x1040 s0 t && (ch t C).pendq == [.strobe 1] &&
      t.strobe == some ⟨1, 1, captured s0 1, servingMask s0, 0, 0, false⟩) = true := by decide +kernel
def sStrobe : State := { withEntry 1 .accepted s0 with strobe := some ⟨1, 1, [], 1, 0, 0, false⟩ }
theorem witness_StrobeStarts_distributed : running sStrobe = true ∧ jEntry sStrobe 1 = some (je 1 .accepted) ∧
    (je 1 .accepted).state.isOpen = true ∧
    nx .strobeDistributed sStrobe (fun t => journalState t 1 == some .running) = true := by decide +kernel
theorem witness_Snapshots : WriteReaches s0 0 0x2040 ∧ s0.snapOp = none ∧ ((0x4000 : BitVec 16) ≠ 0 ∨ true = true) ∧
    nx (.snapCmd 0 0x4000 true) s0 (fun t => took 0x2040 s0 t && t.snapOp == some (1, 0x4000, true, 5004)) = true := by
  decide +kernel
def sSnap : State := { withEntry 1 .accepted s0 with snapOp := some (1, 0x4000, true, 5000) }
/-- The snapshot of channel 14 and the block on the fourth tick (R362): the pages take its number, others keep theirs. -/
theorem witness_Snapshots_edge : running sSnap = true ∧ 5000 ≤ sSnap.tick ∧ jEntry sSnap 1 = some (je 1 .accepted) ∧
    (je 1 .accepted).state.isOpen = true ∧
    nx .snapshotEdge sSnap (fun t => t.snapTime == 5000 && journalState t 1 == some .done &&
      Tab.get? t.snap 0x5000 == some (2 ^ 48 + 1) && Tab.get? t.snap (addrC 14 2 0) == some (2 ^ 48 + 1) &&
      Tab.get? t.snap (addrC 13 2 0) == none) = true := by decide +kernel
theorem witness_PageLocks : WriteReaches s0 0 (baseOf 0x102000 + 0x10) ∧ pageLocked s0 (baseOf 0x102000) = false ∧
    (0x180010001 : Word).getLsbD 32 = true ∧ lockWaits s0 (baseOf 0x102000) ≠ 0 ∧
    nx (.pageLock 0 0x102000 0x180010001) s0 (fun t => took 0x102010 s0 t && pageLocked t 0x102000) = true := by
  decide +kernel
def sLocked : State := { s0 with wo := [(0x102010, 1#64 <<< 32)] }
theorem witness_PageLocks_locked : WriteReaches sLocked 0 (baseOf 0x102000 + 0x10) ∧ pageLocked sLocked (baseOf 0x102000) = true ∧
    nx (.pageLock 0 0x102000 0) sLocked (fun t => bits (ctWord t 0x102030) 48 16 == 1 && t.stg == sLocked.stg) = true := by
  decide +kernel
/-- Eight answers wait for the host. -/
def sFull : State := { s0 with rspQ := List.replicate 8 ⟨0, 7⟩ }
theorem witness_AccessAnswers_waiting : 8 ≤ sFull.rspQ.length ∧ hpReady s0 = true ∧
    nx (.deniedRead 0 0x40) sFull (fun t => t.rspQ == sFull.rspQ) = true := by decide +kernel
/-- An agent table page with no channel in service, and another page. -/
def sNone : State := { s0 with chans := s0.chans.map fun k => { k with pwr := .gated } }
theorem witness_PageLocks_atOnce : WriteReaches s0 0 (baseOf 0x3000 + 0x10) ∧ pageLocked s0 (baseOf 0x3000) = false ∧
    lockWaits s0 (baseOf 0x3000) = 0 ∧ (∀ x ∈ s0.locks, x.seq ≠ s0.jrnNext) ∧ isTablePage (baseOf 0x3000) = false ∧
    Tab.rising s0.stg = true ∧
    nx (.pageLock 0 0x3000 0x180010001) s0 (fun t => journalState t 1 == some .done && pageLocked t 0x3000 &&
      appWord t 0x3010 == 0x80010001) = true := by
  decide +kernel
theorem witness_PageLocks_table : WriteReaches sNone 0 (baseOf 0x5000 + 0x10) ∧ lockWaits sNone (baseOf 0x5000) = 0 ∧
    isTablePage (baseOf 0x5000) = true ∧ (∀ x ∈ sNone.locks, x.seq ≠ sNone.jrnNext) ∧ pageLocked sNone (baseOf 0x5000) = false ∧
    nx (.pageLock 0 0x5000 0x180010001) sNone (fun t => t.locks.map (fun x => (x.page, x.seq, x.waiting)) == [(0x5000, 1, 0)]) =
      true := by
  decide +kernel

def sHold : State := { s0 with holds := [(0, ⟨0, 6, 3, true, 1024, 9000, 1⟩)] }
def sHold0 : State := { withEntry 1 .done s0 with holds := [(0, ⟨0, 6, 3, true, 1024, 5000, 1⟩)] }
def sHoldP : State := { withEntry 1 .pending s0 with holds := [(0, ⟨0, 6, 3, false, 1024, 0, 1⟩)] }
theorem witness_AddressHolds : WriteReaches s0 0 0x4040 ∧ (∀ x ∈ s0.holds, x.2.lapsed s0.tick = false) ∧ Tab.get? s0.holds 0 = none ∧
    (6 : BitVec 6).toNat ≤ 46 ∧ (64 : LAddr).toNat % 2 ^ (6 : BitVec 6).toNat = 0 ∧
    rangeOpen s0 0 64 (6 : BitVec 6).toNat = false ∧
    nx (.acquire 0 64 6 1) s0 (fun t => took 0x4040 s0 t && Tab.get? t.holds 0 == some ⟨64, 6, 0, true, 1024, 6024, 1⟩) = true :=
  by decide +kernel
/-- The page of HOLD_CMD opened to context 3. -/
def sHold3 : State := withApp [(0x4010, 0x00080008)] sHold
theorem witness_AddressHolds_owner : WriteReaches sHold3 3 0x4040 ∧ (∀ x ∈ sHold3.holds, x.2.lapsed sHold3.tick = false) ∧
    Tab.get? sHold3.holds (0 : BitVec 6).toNat = some ⟨0, 6, 3, true, 1024, 9000, 1⟩ ∧
    nx (.renew 3 0 2) sHold3 (fun t => Tab.get? t.holds 0 == some ⟨0, 6, 3, true, 2048, 7048, 1⟩) = true ∧
    nx (.release 3 0) sHold3 (fun t => took 0x4040 sHold3 t && Tab.get? t.holds 0 == none) = true ∧
    nx (.breakHold 0 0) sHold3 (fun t => took 0x4040 sHold3 t && Tab.get? t.holds 0 == none) = true ∧
    nx (.renew 0 0 2) sHold3 (fun t => t.holds == sHold3.holds && t.jrnNext == sHold3.jrnNext) = true := by decide +kernel
theorem witness_AddressHolds_lapse : running sHold0 = true ∧
    Tab.get? sHold0.holds (0 : Fin 64).val = some ⟨0, 6, 3, true, 1024, 5000, 1⟩ ∧ 5000 ≤ sHold0.tick ∧
    nx (.holdLapse 0) sHold0 (fun t => Tab.get? t.holds 0 == none && bits (ctWord t 0x4108) 24 40 == 1) = true := by
  decide +kernel
theorem witness_AddressHolds_granted : running sHoldP = true ∧
    Tab.get? sHoldP.holds (0 : Fin 64).val = some ⟨0, 6, 3, false, 1024, 0, 1⟩ ∧ rangeOpen sHoldP 3 0 6 = false ∧
    jEntry sHoldP 1 = some (je 1 .pending) ∧ (je 1 .pending).state.isOpen = true ∧
    nx (.holdGranted 0) sHoldP (fun t => Tab.get? t.holds 0 == some ⟨0, 6, 3, true, 1024, 6024, 1⟩ &&
      journalState t 1 == some .done) = true := by decide +kernel
theorem witness_JournalWindow : WriteReaches s0 0 (0x3040 + 8 * (15 : Fin 16).val) ∧
    ReadReaches s0 0 (0x3100 + 32 * (7 : Fin 8).val) ∧ s0.jrnNext ≤ jrnCur s0 0 + (7 : Fin 8).val ∧ ReadReaches s0 0 0x31F8 ∧
    nx (.jrnCur 0 15 9) s0 (fun t => jrnCur t 0 == 9) = true ∧
    nx (.jrnWindowRead 0 7 0) s0 (fun t => t.rsp == some ⟨0, 0⟩) = true ∧
    nx (.jrnWindowRead 0 7 3) s0 (fun t => jrnCur t 0 == jrnCur s0 0 + 8) = true := by decide +kernel
theorem witness_ArbiterLevels : WriteReaches s0 0 (addrC C 7 0x58) ∧ (ch s0 C).newLevels = none ∧
    cmOpen s0 (addrC C 7 0x58) = false ∧
    nx (.arbPrio 0 C 0) s0 (fun t => took (addrC C 7 0x58) s0 t && (ch t C).newLevels == some (0, 1)) = true := by decide +kernel
def sLevels : State := at0 (fun k => { k with newLevels := some (0, 1) }) (withEntry 1 .running s0)
theorem witness_ArbiterLevels_inForce : running sLevels = true ∧ (ch sLevels C).newLevels = some (0, 1) ∧
    nx (.arbLevelsInForce C) sLevels (fun t => (ch t C).levels == 0 && journalState t 1 == some .done) = true := by
  decide +kernel

-- ## The flow image (08)

/-- The digest has been written, and channel 14 is QUIESCED. -/
def sImg : State := { pw .quiesced s0 with wo := (List.range 6).map fun k => (imgDigestAddr k, 1) }
theorem witness_FlowImage : WriteReaches s0 0 (imgDigestAddr (5 : Fin 6)) ∧
    nx (.imgDigest 0 5 7) s0 (fun t => Tab.get? t.wo (imgDigestAddr 5) == some 7) = true ∧
    nx (.imgDigest 0 5 7) sImg (fun t => Tab.get? t.wo (imgDigestAddr 5) == some 1) = true := by decide +kernel
theorem witness_FlowImage_load : WriteReaches sImg 0 imgCmdAddr ∧ sImg.load = none ∧ digestSet sImg = true ∧
    (0x4000 : BitVec 16) ≠ 0 ∧ (∀ c : Ch, (0x4000 : BitVec 16).getLsbD c.val = true → (ch sImg c).pwr = .quiesced) ∧
    nx (.imgCmd 0 0x4000) sImg (fun t => took imgCmdAddr sImg t && t.load == some ⟨1, 0x4000, [], 0⟩) = true := by
  decide +kernel
/-- The header of an image of 64 microwords (Table 8-7), newest first, and n microwords after it. -/
def sLoad (n : Nat) : State := { withEntry 1 .running sImg with
  load := some ⟨1, 0x4000, (List.range n).map (BitVec.ofNat 64) ++ [0, 0, 0, 0, 0, 0, 0x0000004000000111, 0x1640000153554E4A], 8 + n⟩ }
theorem witness_FlowImage_abort : WriteReaches (sLoad 0) 0 imgCmdAddr ∧ (sLoad 0).load.isSome = true ∧
    nx (.imgAbort 0) (sLoad 0) (fun t => t.load == none && t.imgResult == 5) = true := by decide +kernel
/-- The first beat, and the first microword: microword 0 of both copies. -/
theorem witness_FlowImage_beats : WriteReaches (sLoad 0) 0 imgDataAddr ∧ 8 ≤ (sLoad 0).load.elim 0 (·.count) ∧
    (sLoad 0).load.elim 0 (·.count) + 1 < 8 + (sLoad 0).load.elim 0 (·.nwords) ∧
    nx (.imgData 0 0xABC) (sLoad 0) (fun t => microword (ch t C) 0 == 0xABC && memWord (ch t C) 8 0 0 0 == 0xABC) = true ∧
    nx (.imgData 0 0x1640000153554E4A) { sLoad 0 with load := some ⟨1, 0x4000, [], 0⟩ } (fun t =>
      t.load == some ⟨1, 0x4000, [0x1640000153554E4A], 1⟩) = true := by decide +kernel
/-- The header but for its last word; `w` is its first word. -/
def sHead (w : Word) : State := { withEntry 1 .running sImg with load := some ⟨1, 0x4000, [0, 0, 0, 0, 0, 0x0000004000000111, w], 7⟩ }
theorem witness_FlowImage_header : WriteReaches (sHead 0x1640000153554E4A) 0 imgDataAddr ∧
    nx (.imgData 0 0) (sHead 0x1640000153554E4A) (fun t => t.load.map (·.count) == some 8) = true ∧
    nx (.imgData 0 0) (sHead 0) (fun t => t.load.isNone && t.imgResult == 1 && journalState t 1 == some .failed) = true := by
  decide +kernel
/-- The last beat of an image of 64 microwords. -/
theorem witness_FlowImage_last : WriteReaches (sLoad 63) 0 imgDataAddr ∧ (sLoad 63).load.any (fun l =>
    decide (8 ≤ l.count) && decide (8 + { l with words := 0x55 :: l.words, count := l.count + 1 }.nwords ≤ l.count + 1) &&
      decide (l.count < 8200) && headerResult { l with words := 0x55 :: l.words, count := l.count + 1 } == none) = true ∧
    nx (.imgData 0 0x55) (sLoad 63) (fun t => t.load.isNone && t.imgResult == 4) = true := by decide +kernel
/-- The SHA-384 digest of that image (R228), worked out outside the model, has been written. -/
def sDigest : State := { sLoad 63 with wo := [0x81700e161829960, 0xa8382401c03de1d5, 0x359f6e02b2bea10f,
  0xc262000e0c66afd3, 0x567f384ef16f3e95, 0x2c0784b87a100568].zipIdx.map fun x => (imgDigestAddr x.2, x.1) }
theorem witness_FlowImage_ok : nx (.imgData 0 0x55) sDigest (fun t => t.load.isNone && t.imgResult == 0 && t.imgValid.getLsbD 14) = true := by
  decide +kernel
-- ## The line cache, the gate, and retirement (09, 11, 12)

def sLcOff : State := at0 (fun k => { k with lc := .off, invDone := true }) s0
theorem witness_LineCacheSwitch : WriteReaches s0 0 (addrC C 8 0x48) ∧ (ch s0 C).lcHeld = none ∧ (ch s0 C).lc = .on ∧
    maintBusy (ch s0 C) = false ∧ nx (.disable 0 C) s0 (fun t => (ch t C).lc == .draining) = true := by decide +kernel
theorem witness_LineCacheSwitch_enable : WriteReaches sLcOff 0 (addrC C 8 0x48) ∧ (ch sLcOff C).lcHeld = none ∧
    (ch sLcOff C).lc = .off ∧ (ch sLcOff C).invDone = true ∧
    nx (.enable 0 C) sLcOff (fun t => (ch t C).lc == .on && journalState t 1 == some .done) = true := by decide +kernel
theorem witness_RangeOperations : WriteReaches s0 0 (addrC C 8 0x50) ∧ maintBusy (ch s0 C) = false ∧
    (ch s0 C).lc ≠ .draining ∧ (46 : BitVec 6).toNat ≤ 46 ∧ (0 : LAddr).toNat % 2 ^ (46 : BitVec 6).toNat = 0 ∧
    heldByOther s0 0 false 0 46 = false ∧
    nx (.clean 0 C 0 46 false) s0 (fun t => took (addrC C 8 0x50) s0 t && maintBusy (ch t C)) = true ∧
    nx (.invalidate 0 C 0 46 false) s0 (fun t => took (addrC C 8 0x50) s0 t && maintBusy (ch t C)) = true ∧
    nx (.cleanInvalidate 0 C 5 3 true) s0 (fun t => took (addrC C 8 0x50) s0 t && maintBusy (ch t C)) = true := by
  decide +kernel
theorem witness_GateSwaps : WriteReaches s0 0 (addrC C 0xB 0x60) ∧ cmOpen s0 (addrC C 0xB 0x60) = false ∧
    (ch s0 C).swapOpen = none ∧
    nx (.tgSwap 0 C false false) s0 (fun t => journalState t 1 == some .done) = true ∧
    nx (.tgSwap 0 C true true) s0 (fun t => journalState t 1 == some .pending && (ch t C).pendq == []) = true ∧
    nx (.tgSwap 0 C true false) s0 (fun t => (ch t C).pendq == [.swap true 1]) = true := by decide +kernel
theorem witness_GateSwaps_lock : WriteReaches s0 0 (addrC C 0xB 0x70) ∧ (5#32).setWidth 64 &&& ~~~(tgLocks s0 C) ≠ 0 ∧
    nx (.tgLock 0 C 5) s0 (fun t => tgLocks t C == 5 && (ch t C).pendq == [.regionLock 5 1]) = true := by decide +kernel
def sSwap : State := at0 (fun k => { k with swapOpen := some (true, false, 1, true), tgActive := true })
  { withEntry 1 .running s0 with ripe := [.swap C] }
theorem witness_GateSwaps_done : running sSwap = true ∧ Ripe.swap C ∈ sSwap.ripe ∧ (ch sSwap C).swapOpen = some (true, false, 1, true) ∧
    drainPend (ch sSwap C) = false ∧ jEntry sSwap 1 = some (je 1 .running) ∧ (je 1 .running).state.isOpen = true ∧
    nx (.gateSwapDone C) sSwap (fun t => (ch t C).swapOpen == none && (ch t C).tgActive) = true := by decide +kernel
def sNotice : State := withApp [(queueAddr C 6, 0xD0), (queueAddr C 255, 0xD0)]
  (at0 (fun k => { k with notice := some (5000, 7, 2, 0, 240) }) s0)
theorem witness_GateSwaps_notice : serving sNotice C = true ∧ (240 : InstId).toNat ≤ 240 ∧
    (ch sNotice C).notice = some (5000, 7, 2, 0, 240) ∧ 5000 ≤ sNotice.tick ∧ (share sNotice C 6 1).1 ≠ 0 ∧
    nx (.gateNoticeWindowEnd C) sNotice (fun t => (ch t C).notice == none && ((queueOf (ch t C) 6).at 1).wr == 1 &&
      ((queueOf (ch t C) 255).at 1).wr == 1) = true := by decide +kernel
theorem witness_Retirements : WriteReaches s0 0 (addrC C 0xC 0x90) ∧ retireBusy (ch s0 C) = false ∧ (ch s0 C).pwr = .on ∧
    retireFits (ch s0 C) (.retireSlot 15 2047 15) = true ∧ retireFits (ch s0 C) (.retireSet 15 255) = true ∧
    retireFits (ch s0 C) (.retirePage 14) = true ∧ retireHeld s0 0 (.retirePage 14) = false ∧ (255 : BitVec 11).toNat ≤ 255 ∧
    nx (.retireSlot 0 C 15 2047 15) s0 (fun t => journalState t 1 == some .running && retireBusy (ch t C)) = true ∧
    nx (.retireSet 0 C 15 255) s0 (fun t => journalState t 1 == some .running && retireBusy (ch t C)) = true ∧
    nx (.retirePage 0 C 14) s0 (fun t => journalState t 1 == some .running && retireBusy (ch t C)) = true := by decide +kernel
def sFence : State := at0 (fun k => { k with
  openReqs := [oreq], nextRid := 1, hoff := [⟨some .a, rq 0, .rdOwn, L, 0, 0, 0, 14, false, false⟩] }) s0
theorem witness_FenceCommand : WriteReaches sFence 0 (addrC C 0xD 0x48) ∧ cmOpen sFence (addrC C 0xD 0x48) = false ∧
    (ch sFence C).pwr.serving = true ∧ (ch sFence C).cause = .none ∧ owedFenced (ch sFence C) oreq = true ∧
    nx (.fence 0 C) sFence (fun t => (ch t C).fence && (ch t C).cause == .command &&
      (ch t C).vrs.map (fun x => (x.hdr.opcode, x.hdr.tag)) == [(0x15, 0x77)]) = true := by decide +kernel

-- ## Notification queues (15)

/-- Queue 5 of channel 14: sub-buffer 2 has 16 places from slot 16 on, and holds one record of two words. -/
def sQueue : State := withApp [(queueAddr C 5, 0x500), (queueAddr C 5 + 8, BitVec.ofNat 64 (16 * 2 ^ 28))]
  (at0 (fun k => { k with
    queues := [(5, { Queue.fresh with sub := Queue.fresh.sub.set 2 ⟨3, 4⟩ })]
    mem := [(rowKey 9 0 9 * 8 + 4, 0x0100000000000005), (rowKey 9 0 9 * 8 + 5, 0x99)]
    rows := [(rowKey 9 0 9, ⟨0, 0, false⟩)] }) s0)
theorem witness_QueuePop : ReadReaches sQueue 0 (queueAddr C 5 + 0x10) ∧ (queueOf (ch sQueue C) 5).moving = false ∧
    popPrio (queueOf (ch sQueue C) 5) = some 2 ∧ share sQueue C 5 2 = (16, 16) ∧ (ch sQueue C).qBad = [] ∧
    nx (.qPop 0 C 5) sQueue (fun t => t.rsp == some ⟨0, 0x8100000000000005⟩ && (queueOf (ch t C) 5).hold1 == 0x99 &&
      (queueOf (ch t C) 5).hold2 == 0 && (queueOf (ch t C) 5).at 2 == ⟨4, 4⟩) = true := by decide +kernel
theorem witness_QueuePop_empty : ReadReaches sQueue 0 (queueAddr C 6 + 0x10) ∧ (queueOf (ch sQueue C) 6).moving = false ∧
    popPrio (queueOf (ch sQueue C) 6) = none ∧ nx (.qPop 0 C 6) sQueue (fun t => t.rsp == some ⟨0, 0⟩) = true := by decide +kernel
theorem witness_QueueFlushes : WriteReaches sQueue 0 (queueAddr C 5 + 0x40) ∧ (queueOf (ch sQueue C) 5).flush = none ∧
    (4 : BitVec 4) ≠ 0 ∧ nx (.queueFlush 0 C 5 4) sQueue (fun t => (queueOf (ch t C) 5).flush == some (1, 4) &&
      journalState t 1 == some .accepted) = true := by decide +kernel
def sFlush : State := at0 (fun k => { k with queues := [(5, { queueOf k 5 with flush := some (1, 4) })] })
  (withEntry 1 .accepted sQueue)
theorem witness_QueueFlushes_boundary : serving sFlush C = true ∧ (queueOf (ch sFlush C) 5).flush = some (1, 4) ∧
    (queueOf (ch sFlush C) 5).moving = false ∧ jEntry sFlush 1 = some (je 1 .accepted) ∧ (je 1 .accepted).state.isOpen = true ∧
    nx (.queueFlushBoundary C 5) sFlush (fun t => ((queueOf (ch t C) 5).at 2).count == 0 && journalState t 1 == some .done) = true :=
  by decide +kernel
def sMoving : State := at0 (fun k => { k with queues := [(5, { queueOf k 5 with moving := true })] }) sQueue
theorem witness_QueueFlushes_move : serving sMoving C = true ∧ (queueOf (ch sMoving C) 5).moving = true ∧
    (queueOf (ch sMoving C) 5).emptyAfter = false ∧
    nx (.queueMoveEnd C 5) sMoving (fun t => !(queueOf (ch t C) 5).moving && (queueOf (ch t C) 5).at 2 == ⟨3, 4⟩) = true := by
  decide +kernel

-- ## Instances and agents (16, 20)

/-- Instance 240 in a state, at the block and in the channel. -/
def inst240 (st : IState) (s : State) : State := { at0 (fun k => { k with ist := [(240, st)] }) s with ist := [(240, st)] }
theorem witness_InstanceStates : WriteReaches s0 0 instCmd ∧ 1 ≤ (240 : InstId).toNat ∧ (240 : InstId).toNat ≤ 240 ∧
    servingMask s0 ≠ 0 ∧ instBusy s0 0 240 = false ∧ instMay s0 0 240 false = true ∧ instMay s0 0 240 true = true ∧
    instMay (inst240 .quiesced s0) 2 240 false = true ∧ instMay (inst240 .quiescing s0) 2 240 true = true ∧
    instMay (inst240 .frozen s0) 5 240 false = true ∧ instMay (inst240 .frozen s0) 9 240 false = true ∧
    nx (.create 0 240 3 false) s0 (fun t => (ch t C).pendq == [.inst 240 .active 1] && journalState t 1 == some .accepted) = true ∧
    nx (.create 0 240 3 true) s0 (fun t => (ch t C).pendq == [] && journalState t 1 == some .pending) = true := by decide +kernel
theorem test_resume : instBusy (inst240 .quiesced s0) 2 240 = false ∧
    nx (.resume 0 240 3 false) (inst240 .quiesced s0) (fun t => (ch t C).pendq == [.inst 240 .active 1]) = true := by decide +kernel
theorem test_thaw : instBusy (inst240 .frozen s0) 5 240 = false ∧
    nx (.thaw 0 240 3 false) (inst240 .frozen s0) (fun t => (ch t C).pendq == [.inst 240 .active 1]) = true := by decide +kernel
theorem test_remove : instBusy (inst240 .frozen s0) 9 240 = false ∧
    nx (.remove 0 240) (inst240 .frozen s0) (fun t => (ch t C).pendq == [.inst 240 .free 1]) = true := by decide +kernel
theorem witness_InstanceStates_quiesce : instBusy (inst240 .active s0) 1 240 = false ∧
    instStateB (inst240 .active s0) 240 = .active ∧
    nx (.quiesce 0 240) (inst240 .active s0) (fun t => instStateB t 240 == .quiescing &&
      (ch t C).pendq == [.inst 240 .quiescing 1]) = true := by decide +kernel
def opQ : InstOp := ⟨1, 1, 240, 0, 0, none, 0, 0, 0, false⟩
def sQuies : State := { inst240 .quiescing (withEntry 1 .running s0) with instOps := [opQ], ripe := [.quiesce 240] }
theorem witness_InstanceStates_quiesced : running sQuies = true ∧ Ripe.quiesce 240 ∈ sQuies.ripe ∧ instStateB sQuies 240 = .quiescing ∧
    quiescedDue sQuies 240 = some opQ ∧
    nx (.instanceQuiesced 240) sQuies (fun t => instStateB t 240 == .quiesced && t.instOps == []) = true := by decide +kernel
def sFlushed : State := { inst240 .quiesced s0 with flushed := [240] }
theorem witness_InstanceStates_freeze : instBusy sFlushed 4 240 = false ∧ instStateB sFlushed 240 = .quiesced ∧
    (240 : InstId) ∈ sFlushed.flushed ∧
    nx (.freeze 0 240) sFlushed (fun t => instStateB t 240 == .frozen && instState (ch t C) 240 == .frozen) = true := by
  decide +kernel
theorem witness_InstanceData : instBusy s0 3 240 = false ∧ (46 : BitVec 6).toNat ≤ 46 ∧ heldByOther s0 0 false 0 46 = false ∧
    nx (.flush 0 240 46 0) s0 (fun t => journalState t 1 == some .running && (ch t C).jobs.length == 1) = true ∧
    nx (.save 0 240) (inst240 .frozen s0) (fun t => t.saved.length == 19) = true ∧
    (saveImage s0 240 1).getD 0 0 = 0xFFFF00F001111640 := by decide +kernel
/-- The words before the check word of the image of instance 240 under reset values (Table 16-3). -/
def imageWords : List Word := [0xFFFF00F001111640] ++ (List.replicate 8 0x80000A00000 ++ (List.replicate 8 0x80000A00000 ++ [1]))
/-- CRC-32C of those words (R408). -/
theorem crc_imageWords : wordsCrc imageWords = 0x2A03601F := by
  have h0 : ([0xFFFF00F001111640].flatMap fun w : Word => bytesOf w.toNat 8).foldl crcByte 0xFFFFFFFF = 0x5E9E9097 := by
    decide +kernel
  have h1 : ((List.replicate 8 0x80000A00000).flatMap fun w : Word => bytesOf w.toNat 8).foldl crcByte 0x5E9E9097 =
      0x3601233e := by decide +kernel
  have h2 : ((List.replicate 8 0x80000A00000).flatMap fun w : Word => bytesOf w.toNat 8).foldl crcByte 0x3601233e =
      0xb2b27977 := by decide +kernel
  unfold wordsCrc crc32c imageWords
  rw [List.flatMap_append, List.flatMap_append, List.flatMap_append, List.foldl_append, List.foldl_append,
    List.foldl_append, h0, h1, h2]
  decide +kernel
/-- The image of instance 240 is staged and applied in INST_LOAD. -/
def sRest : State := withApp (((imageWords ++ [0x2A03601F]).zipIdx).map fun (x : Word × Nat) => (0x6200 + 8 * x.2, x.1)) s0
theorem witness_InstanceData_restore : instBusy sRest 7 240 = false ∧ instMay sRest 7 240 false = true := by
  refine ⟨by decide +kernel, ?_⟩
  have h : (loadImage sRest).take 18 = imageWords := by decide +kernel
  have hf : imageFits sRest 240 = true := by
    simp only [imageFits, h, crc_imageWords]
    decide +kernel
  simp only [instMay, hf]
  decide +kernel
theorem witness_InstanceData_reset : instBusy (inst240 .frozen s0) 8 240 = false ∧ instStateB (inst240 .frozen s0) 240 = .frozen ∧
    ∀ c : Ch, (queueOf (ch (inst240 .frozen s0) c) (15 + (240 : InstId).toNat)).moving = false := by decide +kernel
theorem test_instanceReset : nx (.instanceReset 0 240) (inst240 .frozen s0) (fun t => journalState t 1 == some .done) = true := by
  decide +kernel
/-- The other channels are GATED. -/
def alone (s : State) : State := { s with chans := (s.chans.map fun k => { k with pwr := .gated }).set 14 (ch s 14) }
/-- Agent 12 is a CXL host in the block's table. -/
def sAgent : State := alone (withApp [(0x5100 + 8 * 6, 1)] s0)
theorem witness_AgentCommands : WriteReaches sAgent 0 agCmd ∧ agBusy sAgent 12 = false ∧ agentKindB sAgent 12 ≠ 0 ∧
    agentLifeB sAgent 12 = .live ∧
    nx (.declareDead 0 12) sAgent (fun t => agentLifeB t 12 != .live && agentDead (ch t C) 12) = true := by decide +kernel
def sDead : State := { at0 (fun k => { k with life := [(12, .dead)] }) sAgent with life := [(12, .dead)] }
theorem witness_AgentCommands_admit : WriteReaches sDead 0 agCmd ∧ agBusy sDead 12 = false ∧ mayAdmit sDead 12 = true ∧
    servingMask sDead ≠ 0 ∧
    nx (.admitAgent 0 12) sDead (fun t => agentLifeB t 12 == .dead && (ch t C).pendq == [.admission 12 1]) = true := by decide +kernel
-- ## Power and resets (17)

/-- A power command of channel 14 runs. -/
def sPwr (op : BitVec 4) (s : State) : State := { withEntry 1 .running s with pwrRun := [(14, ⟨1, op, 0, false, false⟩)] }
theorem witness_PowerCommands : WriteReaches s0 0 pwrCmd ∧ pwrPending s0 C = none ∧ pwrRunning s0 C = none ∧
    (ch s0 C).pwr = .on ∧ (ch s0 C).cause = .none ∧ (tile s0 C 15).gated = false ∧
    nx (.drain 0 C) s0 (fun t => (ch t C).pwr == .draining && pwrRunning t C == some ⟨1, 1, 0, false, false⟩) = true ∧
    nx (.gate 0 C) s0 (fun t => (ch t C).pwr == .draining && (ch t C).vacate == 1) = true ∧
    nx (.off 0 C) s0 (fun t => (ch t C).pwr == .draining && (ch t C).vacate == 1) = true ∧
    nx (.bankGate 0 C 15) s0 (fun t => (ch t C).jobs.map (·.kind) == [.bankDrain 15]) = true := by decide +kernel
def sGated : State := { pw .gated s0 with imgValid := ~~~0 }
theorem witness_PowerCommands_off : pwrPending sGated C = none ∧ pwrRunning sGated C = none ∧ (ch sGated C).pwr = .gated ∧
    nx (.off 0 C) sGated (fun t => (ch t C).pwr == .off && !t.imgValid.getLsbD C.val && pwrRunning t C == none) = true := by
  decide +kernel
def sQuiet : State := { pw .quiesced s0 with imgValid := ~~~0 }
theorem witness_PowerCommands_up : (ch sQuiet C).pwr = .quiesced ∧ (ch sQuiet C).cause = .none ∧ mayEnterOn sQuiet C = true ∧
    (ch sQuiet C).settled = true ∧ nx (.up 0 C) sQuiet (fun t => (ch t C).pendq == [.resume]) = true := by decide +kernel
def sBank : State := modTile C 15 (fun x => { x with gated := true }) s0
theorem witness_PowerCommands_bankUp : (tile sBank C 15).gated = true ∧
    nx (.bankUp 0 C 15) sBank (fun t => (tile t C 15).powering && pwrRunning t C == some ⟨1, 6, 15, false, false⟩) = true := by decide +kernel
theorem witness_ChannelReset : WriteReaches sFence 0 (chRstAddr C) ∧ (ch sFence C).pwr.serving = true ∧
    nx (.chRst 0 C) sFence (fun t => (ch t C).pwr == .reset && (ch t C).openReqs == [] && (ch t C).dout == [] && (ch t C).sno == [] &&
      Tab.get? t.chRst 14 == some 1) = true := by
  decide +kernel
theorem test_coldReset : nx .coldResetAssert { s0 with adLevel := 5 } (fun t => !t.coldN && t.adLevel == 5 && t.jrnNext == 1 &&
    (ch t C).pwr == .reset) = true := by decide +kernel
theorem test_warmResetRelease : nx .warmResetRelease { s0 with warmN := false } (fun t => t.warmN) = true := by decide +kernel
def sWarm : State := alone (withEntry 1 .running s0)
theorem witness_BlockResets : running sWarm = true ∧ jEntry sWarm 1 = some (je 1 .running) ∧ (je 1 .running).state.isOpen = true ∧
    sWarm.locks = [] ∧ (∀ c : Ch, (ch sWarm c).pendq = []) ∧ (ch sWarm C).pwr ≠ .gated ∧ (ch sWarm C).pwr ≠ .off ∧
    (ch sWarm 3).pwr = .gated ∧
    nx .warmResetAssert sWarm (fun t => !t.warmN && (ch t C).pwr == .reset && (ch t 3).pwr == .gated &&
      journalState t 1 == some .failed) = true := by decide +kernel
def sDrain (op : BitVec 4) (v : Nat) : State := at0 (fun k => { k with vacate := v, drainTick := 100 })
  { sPwr op (pw .draining s0) with ripe := [.drain C] }
theorem witness_ServiceChanges : serving (sDrain 1 0) C = true ∧ (ch (sDrain 1 0) C).pwr = .draining ∧
    pwrRunning (sDrain 1 0) C = some ⟨1, 1, 0, false, false⟩ ∧ pwrPending (sDrain 1 0) C = none ∧ onAsked (ch (sDrain 1 0) C) = false ∧
    jEntry (sDrain 1 0) 1 = some (je 1 .running) ∧ (je 1 .running).state.isOpen = true ∧ drained (ch (sDrain 1 0) C) = true ∧
    Ripe.drain C ∈ (sDrain 1 0).ripe ∧
    nx (.drainQuiesced C) (sDrain 1 0) (fun t => (ch t C).pwr == .quiesced && journalState t 1 == some .done) = true ∧
    (ch (sDrain 3 1) C).vacate = 1 ∧ drained (ch (sDrain 3 1) C) = true ∧
    nx (.drainQuiesced C) (sDrain 3 1) (fun t => (ch t C).vacate == 2 && (ch t C).jobs.map (·.kind) == [.vacateDir]) = true := by
  decide +kernel
def sLimit : State := { sDrain 3 1 with tick := 2 ^ 30 }
theorem witness_ServiceChanges_limit : (ch sLimit C).vacate ≤ 1 ∧ (ch sLimit C).limit = false ∧
    (ch sLimit C).drainTick + drainLimit sLimit ≤ sLimit.tick ∧ pwrRunning sLimit C = some ⟨1, 3, 0, false, false⟩ ∧
    nx (.drainLimitPassed C) sLimit (fun t => (ch t C).limit && journalState t 1 == some .failed) = true := by decide +kernel
theorem witness_ServiceChanges_clamp : clampDue (sDrain 4 4) C = true ∧ pwrRunning (sDrain 4 4) C = some ⟨1, 4, 0, false, false⟩ ∧
    pwrPending (sDrain 4 4) C = none ∧
    nx (.channelClamp C) (sDrain 4 4) (fun t => (ch t C).pwr == .off && pwrRunning t C == none) = true ∧
    nx (.channelClamp C) (sDrain 3 4) (fun t => (ch t C).pwr == .gated) = true := by decide +kernel
def sUnsettled : State := at0 (fun k => { k with settled := false }) s0
theorem witness_ServiceChanges_settle : running sUnsettled = true ∧ (ch sUnsettled C).settled = false ∧
    (ch sUnsettled C).lastDd + ddSettle sUnsettled ≤ sUnsettled.tick ∧
    nx (.ddSettleElapsed C) sUnsettled (fun t => (ch t C).settled) = true := by decide +kernel
theorem witness_ServiceChanges_powerUp : powerUpDue (sPwr 2 sGated) C = true ∧
    nx (.channelPowerUp C) (sPwr 2 sGated) (fun t => (ch t C).pwr == .reset) = true := by decide +kernel
theorem witness_ServiceChanges_resetDone : resetMayEnd (pw .reset s0) C = true ∧ (ch (pw .reset s0) C).resumeOn = false ∧
    pwrRunning (pw .reset s0) C = none ∧
    nx (.channelResetDone C ⟨0, 0, 0, false, false⟩) (pw .reset s0) (fun t => (ch t C).pwr == .quiesced) = true := by decide +kernel
def sBankUp : State := sPwr 6 (modTile C 0 (fun x => { x with gated := true, powering := true }) s0)
theorem witness_ServiceChanges_bank : running sBankUp = true ∧ (tile sBankUp C 0).powering = true ∧ pwrPending sBankUp C = none ∧
    nx (.bankPowerUpDone C 0) sBankUp (fun t => !(tile t C 0).gated && journalState t 1 == some .done) = true := by decide +kernel
/-- A channel whose image is VALID and whose PCLK is measured returns from reset to ON (R416). -/
theorem test_channelResetDone : nx (.channelResetDone C ⟨0, 0, 0, false, false⟩)
    (at0 (fun k => { k with resumeOn := true }) (pw .reset sQuiet)) (fun t => (ch t C).pwr == .on && !(ch t C).fence) = true := by
  decide +kernel
def sQuietU : State := at0 (fun k => { k with settled := false, lastDd := 4999 }) sQuiet
def sQuietX : State := { sQuiet with imgValid := 0 }
theorem witness_PowerCommands_upWaits : WriteReaches sQuietU 0 pwrCmd ∧ pwrPending sQuietU C = none ∧ pwrRunning sQuietU C = none ∧
    Tab.get? sQuietU.bankRun C = none ∧ (ch sQuietU C).pwr = .quiesced ∧ (ch sQuietU C).cause = .none ∧ mayEnterOn sQuietU C = true ∧
    ddSettled sQuietU C = false ∧ nx (.up 0 C) sQuietU (fun t => (ch t C).upWait && (ch t C).pendq == []) = true ∧
    WriteReaches sQuietX 0 pwrCmd ∧ mayEnterOn sQuietX C = false ∧
    nx (.up 0 C) sQuietX (fun t => (jEntry t 1).any fun e => e.state == .done && e.result == 1) = true := by decide +kernel
/-- Channel 3 powers up too. -/
def sPowers : State := { sGated with pwrRun := [(3, ⟨9, 2, 0, true, false⟩)] }
theorem witness_PowerCommands_ungate : WriteReaches sGated 0 pwrCmd ∧ (ch sGated C).pwr = .gated ∧ (ch sGated C).cause = .none ∧
    powersUp sGated C = false ∧ powersUp sPowers C = true ∧
    nx (.up 0 C) sGated (fun t => pwrRunning t C == some ⟨1, 2, 0, true, false⟩ && journalState t 1 == some .running) = true ∧
    nx (.up 0 C) sPowers (fun t => pwrRunning t C == some ⟨1, 2, 0, true, true⟩ && journalState t 1 == some .pending) = true := by
  decide +kernel
theorem witness_PowerCommands_inTarget : nx (.up 0 C) s0 (fun t => journalState t 1 == some .done && t.chans == s0.chans) = true ∧
    nx (.gate 0 C) sGated (fun t => journalState t 1 == some .done) = true ∧
    nx (.drain 0 C) sQuiet (fun t => journalState t 1 == some .done) = true ∧
    nx (.off 0 C) (pw .off s0) (fun t => journalState t 1 == some .done) = true := by decide +kernel
theorem witness_PowerCommands_busy : WriteReaches (sPwr 5 s0) 0 pwrCmd ∧ pwrRunning (sPwr 5 s0) C = some ⟨1, 5, 0, false, false⟩ ∧
    pwrPending (sPwr 5 s0) C = none ∧ Tab.get? (sPwr 5 s0).bankRun C = none ∧ (ch (sPwr 5 s0) C).pwr = .on ∧
    nx (.bankGate 0 C 7) (sPwr 5 s0) (fun t => t.jrnNext == 2 && t.pwrPend == []) = true ∧
    nx (.drain 0 C) (sPwr 5 s0) (fun t => pwrPending t C == some ⟨2, 1, 0, false, false⟩ && journalState t 2 == some .pending) = true ∧
    nx (.gate 0 C) (sPwr 5 s0) (fun t => Tab.get? t.bankRun C == some ⟨1, 5, 0, false, false⟩ && (ch t C).vacate == 1) = true := by
  decide +kernel
/-- An UP of the QUIESCED channel waits for SETTLED, which its last direct delivery lets be. -/
def sUpWait : State := at0 (fun k => { k with upWait := true, settled := false }) (sPwr 2 sQuiet)
theorem witness_ServiceChanges_upWait : running sUpWait = true ∧ (ch sUpWait C).upWait = true ∧
    (ch sUpWait C).lastDd + ddSettle sUpWait ≤ sUpWait.tick ∧ mayEnterOn sUpWait C = true ∧
    nx (.ddSettleElapsed C) sUpWait (fun t => (ch t C).pendq == [.resume] && !(ch t C).upWait) = true := by decide +kernel

-- ## The diagnostic window (20, 21)

def sDbg : State := withApp [(0xB040, 0x103)] s0
theorem witness_RawHolds : WriteReaches sDbg 0 0xB048 ∧ sDbg.rawOpen = none ∧ mayHold sDbg C 15 .lc = true ∧
    nx (.enter 0 C 15 .lc) sDbg (fun t => (ch t C).pendq == [.rawHold 15 .lc 1] && t.rawOpen == some 1) = true := by decide +kernel
def sRaw : State := { sDbg with raw := [(14, ⟨14, .sf, 5000⟩)] }
theorem witness_RawHolds_held : WriteReaches sRaw 0 0xB048 ∧ sRaw.rawOpen = none ∧ rawHeld sRaw C 14 .sf = true ∧
    rawLapsed sRaw C = some ⟨14, .sf, 5000⟩ ∧
    nx (.exit 0 C 14 .sf) sRaw (fun t => (ch t C).pendq == [.rawEnd 14 .sf 1]) = true ∧
    nx (.rawHoldLapse C) sRaw (fun t => (ch t C).pendq == [.rawEnd 14 .sf 0]) = true := by decide +kernel
/-- DG_SEL selects row 8191 of array 0 in tile 14; the write words are 1 to 8. -/
def dgWords : Tab Word := (rawAddr C 0x40, BitVec.ofNat 64 (14 * 16 + 8191 * 256)) ::
  (List.range 8).map fun w => (rawAddr C (0xA0 + 8 * w), BitVec.ofNat 64 (w + 1))
def sDg : State := { sRaw with ct := dgWords }
theorem witness_RawRows : dgTarget sDg C = some (0, 14, 8191) ∧ ReadReaches sDg 0 (rawAddr C 0x48) ∧
    WriteReaches sDg 0 (rawAddr C 0xF0) ∧ rawDenied sDg 0 C false = none ∧ rawDenied sDg 0 C true = none ∧
    cfC sDg C 0xC 0x88 0 1 = 0 ∧ nx (.dgRd 0 C) sDg (fun t => t.rsp == some ⟨0, 0⟩) = true ∧
    nx (.dgWr 0 C) sDg (fun t => memWord (ch t C) 0 14 8191 7 == 8 && journalState t 1 == some .done) = true := by decide +kernel
def sPool : State := { sDbg with ct := [(poolPage C 0x40, 896)] }
theorem witness_PoolAccess : WriteReaches sPool 0 (poolPage C 0x90) ∧ poolEn sPool = true ∧ (ch sPool C).paBusy = none ∧
    (ch sPool C).pwr = .on ∧ (ch sPool C).fence = false ∧ (ch sPool C).cause = .none ∧
    (ch sPool C).pgRet.contains (regionOf ((ctWord sPool (poolPage C 0x40)).setWidth 46)) = false ∧
    (gateCheck sPool C (.host 0) ((ctWord sPool (poolPage C 0x40)).setWidth 46)).wr = true ∧
    (gateCheck sPool C (.host 0) ((ctWord sPool (poolPage C 0x40)).setWidth 46)).rd = true := by decide +kernel
theorem test_read : nx (.read 0 C) sPool (fun t => (ch t C).paBusy == some (1, false, 0) && (ch t C).nextRid == 1 &&
    (ch t C).age == 1 && (tile t C 14).ents.length == 1) = true := by decide +kernel
theorem test_write : nx (.write 0 C) sPool (fun t => (ch t C).paBusy == some (1, true, 0) && (ch t C).paW.1 == L) = true := by
  decide +kernel
def sRetry : State := at0 (fun k => { k with paBusy := some (1, false, 0), paRetry := some 5000, paW := (L, 0, 0), nextRid := 1 })
  (withEntry 1 .running s0)
theorem witness_PoolAccess_reissue : reissueDue sRetry C = true ∧ (ch sRetry C).paBusy = some (1, false, 0) ∧
    (ch sRetry C).pgRet.contains (regionOf (ch sRetry C).paW.1) = false ∧
    nx (.poolAccessReissue C) sRetry (fun t => (ch t C).paBusy == some (1, false, 1) && (ch t C).nextRid == 2) = true := by
  decide +kernel

-- ## Quiet points and maintenance (14, 09)

def sQp : State := at0 (fun k => { k with swapOpen := some (true, false, 1, false), pendq := [.swap true 1] })
  (withEntry 1 .accepted s0)
theorem witness_QuietPoint : serving sQp C = true ∧ (ch sQp C).pendq ≠ [] ∧ (ch sQp C).pendq = [.swap true 1] ∧
    (ch sQp C).swapOpen = some (true, false, 1, false) ∧ jEntry sQp 1 = some (je 1 .accepted) ∧ (je 1 .accepted).state.isOpen = true ∧
    nx (.quietPoint C) sQp (fun t => (ch t C).tgActive && (ch t C).epoch == 1 && (ch t C).pendq == [] &&
      (ch t C).pause == 1016 && journalState t 1 == some .running) = true := by decide +kernel
/-- A CLEAN of one line that the line cache holds DIRTY in way 0 of set 128. -/
def sMaint (all : Bool) : State := at0 (fun k => putTag 14 128 0 ⟨lcTag L, true, true, false, false, false⟩
  { k with jobs := [⟨7, 0, .range 1 all L 0, 1, 0, Vector.replicate 16 JobTile.start, 0, 0⟩], nextRid := 9 }) (withEntry 1 .running s0)
def jobM (all : Bool) : Job := ⟨7, 0, .range 1 all L 0, 1, 0, Vector.replicate 16 JobTile.start, 0, 0⟩
theorem witness_MaintenanceStep : enginesRun (sMaint false) C = true ∧ jobOf (ch (sMaint false) C) 7 = some (jobM false) ∧
    (jobM false).tiles[14].fin = false ∧
    (jobM false).tiles[14].line = none ∧ (jobM false).tiles[3].fin = false ∧
    nextTarget (ch (sMaint false) C) C (14 : TileId) (jobM false).kind 0 0 = some (1, L) ∧ jobHold (ch (sMaint false) C) L = none ∧
    nextTarget (ch (sMaint false) C) C (3 : TileId) (jobM false).kind 0 0 = none ∧
    nx (.maintStep C 14 7) (sMaint false) (fun t => ((jobOf (ch t C) 7).map fun j => j.tiles[14].line) == some (some (L, 9))) = true ∧
    nx (.maintStep C 3 7) (sMaint false) (fun t => ((jobOf (ch t C) 7).map fun j => j.tiles[3].fin) == some true) = true := by
  decide +kernel
/-- RETIRE_SLOT of slot 0 of line L's set, in phase p, or the vacate of a directory (walking tile 14 alone). -/
def slotJob (k : JobKind) (p : Nat) : Job :=
  ⟨7, 0, k, 1, 0, (Vector.replicate 16 { JobTile.start with fin := true }).set 14 { JobTile.start with phase := p }, 0, 0⟩
/-- The set holds an entry for L or nothing. -/
def sSlot (k : JobKind) (p : Nat) (d : Bool) : State := at0 (fun x =>
  { (if d then allocCirrus L 0 (.x 12) 0 x else x) with jobs := [slotJob k p], nextRid := 9 }) (withEntry 1 .running s0)
def rSlot : JobKind := .retireSlot 14 (cirrusSet L) 0
/-- Another requester holds the port. -/
def sPort : State := granted .sf (sSlot rSlot 0 false)
theorem witness_MaintenanceStep_port : enginesRun sPort C = true ∧ jobOf (ch sPort C) 7 = some (slotJob rSlot 0) ∧
    (slotJob rSlot 0).tiles[14].fin = false ∧ (∀ x ∈ (ch sPort C).jobs, x.id = 7 → x = slotJob rSlot 0) ∧
    stepGranted sPort C 14 .sf (.step 7) = false ∧
    nx (.maintStep C 14 7) sPort (fun t => (reqsOf (tile t C 14) .sf).map (·.who) == [.step 7]) = true := by decide +kernel
theorem witness_MaintenanceStep_slot : stepGranted (sSlot rSlot 0 false) C 14 .sf (.step 7) = true ∧
    isCont (ch (sSlot rSlot 0 false) C) 14 (cirrusSet L) 0 = false ∧ (slotJob rSlot 0).tiles[14].phase ≠ 1 ∧
    (∀ x ∈ setRows (cirrusSet L), rowOutcome (ch (sSlot rSlot 0 false) C) (rowKey x.1 14 x.2) = .good) ∧
    slotAt (ch (sSlot rSlot 0 false) C) 14 (cirrusSet L) 0 = .invalid ∧
    (∀ o : TileId, o ≠ 14 → (slotJob rSlot 0).tiles[o].fin = true) ∧
    nx (.maintStep C 14 7) (sSlot rSlot 0 false) (fun t => (ch t C).setRet == [(14, 896, 0, false)] &&
      journalState t 1 == some .done) = true := by decide +kernel
theorem witness_MaintenanceStep_evicts : stepGranted (sSlot rSlot 0 true) C 14 .sf (.step 7) = true ∧
    (∀ x ∈ setRows (cirrusSet L), rowOutcome (ch (sSlot rSlot 0 true) C) (rowKey x.1 14 x.2) = .good) ∧
    slotAt (ch (sSlot rSlot 0 true) C) 14 (cirrusSet L) 0 ≠ .invalid ∧
    evictTaken (tile (sSlot rSlot 0 true) C 14) < evictMax (sSlot rSlot 0 true) C ∧
    slotHeld (ch (sSlot rSlot 0 true) C) C 14 (cirrusSet L) (slotAt (ch (sSlot rSlot 0 true) C) 14 (cirrusSet L) 0) = false ∧
    (freeEntry (tile (sSlot rSlot 0 true) C 14)).isSome = true ∧
    nx (.maintStep C 14 7) (sSlot rSlot 0 true) (fun t => (tile t C 14).ents.map (fun x => x.2.work) == [.eviction] &&
      (jobOf (ch t C) 7).any fun j => j.tiles[14].phase == 1) = true := by decide +kernel
theorem witness_MaintenanceStep_ended : stepGranted (sSlot rSlot 1 false) C 14 .sf (.step 7) = true ∧
    (slotJob rSlot 1).tiles[14].phase = 1 ∧ (slotJob rSlot 1).tiles[14].ent = none ∧
    nx (.maintStep C 14 7) (sSlot rSlot 1 false) (fun t => (ch t C).jobs == [] && journalState t 1 == some .done) = true := by
  decide +kernel
/-- A clear-sky update of the tile has not landed. -/
def sSlotLand : State := at0 (fun k => { k with landings := [⟨L, 1002, .x 12, .stratus 0, 12, 0⟩] }) (sSlot rSlot 0 true)
theorem witness_MaintenanceStep_landing : landingIn sSlotLand C 14 = true ∧ landingIn (sSlot rSlot 0 true) C 14 = false ∧
    (snoopsFirst rSlot || dirOnly rSlot) = true ∧ nx (.maintStep C 14 7) sSlotLand (· == sSlotLand) = true := by decide +kernel
theorem witness_MaintenanceStep_vacate : stepGranted (sSlot .vacateDir 0 true) C 14 .sf (.step 7) = true ∧
    (((allSlots (ch (sSlot .vacateDir 0 true) C)).find? fun x => x.1 == 14).any fun x => x.2.1 == 896 && x.2.2.1 == 0) = true ∧
    nx (.maintStep C 14 7) (sSlot .vacateDir 0 true) (fun t => (tile t C 14).ents.map (fun x => x.2.work) == [.eviction] &&
      slotAt (ch t C) 14 896 0 == .invalid) = true := by decide +kernel
-- ## Requests (03, 04)

/-- The state a lookup of line L finds once the update of a request of edge 1000 has landed (R105). -/
def dirAt (t : State) : Dir := (lookup (ch (passEdges 3 t) C) L).dir
/-- The parts of Plain, as one decidable statement. -/
theorem plain_of {p : State} {c : Ch} {op : ReqOp} {r : ReqIn}
    (h : (mayAccept p c r.port = true ∧ (ch p c).cause = .none ∧ refusal p c (some op) r (instOf p c r) = none ∧ linesOf op r.subtype = 1 ∧
      permits op (gateCheck p c (.irq r.agent (instOf p c r)) r.laddr) = true ∧
      (ch p c).pgRet.contains (regionOf r.laddr) = false ∧ (ch p c).pwr = .on ∧ openLine (ch p c) r.laddr = false) ∧
      (collision (ch p c) r.laddr p.pclk = false ∧ absorber (ch p c) r.agent r.laddr = none ∧
      rawHeld p c (home r.laddr) .sf = false ∧ rawHeld p c (home r.laddr) .lc = false ∧
      (∀ x ∈ dirRows r.laddr, rowOutcome (ch p c) (rowKey x.1 (tileOf r.laddr) x.2) = .good) ∧
      (∀ copy, copy < 2 → ∀ h, h < 2 →
        rowOutcome (ch p c) (rowKey (3 + copy) (tileOf r.laddr) (lcSet r.laddr * 2 + h)) = .good) ∧
      (lookup (ch p c) r.laddr).bad = false)) : Plain p c op r :=
  ⟨h.1.1, h.1.2.1, h.1.2.2.1, h.1.2.2.2.1, h.1.2.2.2.2.1, h.1.2.2.2.2.2.1, h.1.2.2.2.2.2.2.1, h.1.2.2.2.2.2.2.2, h.2.1, h.2.2.1,
    ⟨h.2.2.2.1, h.2.2.2.2.1⟩, h.2.2.2.2.2.1, h.2.2.2.2.2.2.1, h.2.2.2.2.2.2.2⟩

/-- Counter 0 of channel 14 counts RD_SPEC (Tables 18-1, 18-2). -/
def sSpec : State := withApp [(addrC 14 0xF 0x40, BitVec.ofNat 64 (0x0A + 2 ^ 7 + 7 * 2 ^ 8 + 0xFFFF * 2 ^ 32))] s0
theorem witness_RdSpecDropped : mayAccept (passEdges 0 sSpec) C .a = true ∧
    refusal (passEdges 0 sSpec) C (some .rdSpec) (rq 0) (instOf (passEdges 0 sSpec) C (rq 0)) = none ∧
    gFrozen (passEdges 0 sSpec) C = false ∧ (∀ k, k < 16 → (cntCfg (passEdges 0 sSpec) C k).getLsbD 12 = false) ∧
    selects (cntCfg (passEdges 0 sSpec) C 0) 0x0A [] (occOf L 12 0) = true ∧
    nx (.rdSpec C (rq 0)) sSpec (fun t => bits (cntVal t C 0) 0 48 == 1 && (ch t C).openReqs == [] && (ch t C).vrs == []) = true := by
  decide +kernel
theorem witness_ReadsDecided : (lookup (ch p0 C) L).dir = .i ∧ lcFind (ch p0 C) L = none ∧ cfC p0 C 2 0x40 0 1 = 1 ∧
    mayPrefetch p0 C L = false ∧ (freeWay (ch p0 C) (tileOf L) (cirrusSet L) 0).isSome = true := by decide +kernel
/-- GO with the grant of Table 4-2 on lane 0 two edges after acceptance, MEM_RD_DD one edge after it. -/
def decided (i : Instr) (op : ReqOp) (g : BitVec 3) (d : Dir) : Bool :=
  nx i s0 fun t => (ch t C).vrs.map (fun x => (x.hdr.subtype, x.due, x.lane)) == [(rdataSub g 0, 1002, 0)] &&
    (ch t C).mrq.map (fun x => (x.hdr.opcode, x.hdr.hold, x.due)) == [(0x39, true, 1001)] &&
    (ch t C).openReqs == [opened p0 C op (rq 0) false] && (lookup (ch t C) L).dir == .i && dirAt t == d
theorem test_rdShd : decided (.rdShd C (rq 0)) .rdShd grantS (.s (.ptrs [12]) none) = true := by decide +kernel
theorem test_rdAny : decided (.rdAny C (rq 0)) .rdAny grantE (.region 12) = true := by decide +kernel
theorem test_rdOwn : decided (.rdOwn C (rq 0)) .rdOwn grantE (.region 12) = true := by decide +kernel
theorem test_rdCur : decided (.rdCur C (rq 0)) .rdCur grantI .i = true := by decide +kernel

/-- The parts of Decides. -/
theorem decides {p : State} {op : ReqOp} {r : ReqIn} {g : BitVec 3} {d after : Dir} {grows hit : Bool} (hp : Plain p C op r)
    (row : ClearRow r.agent grows hit op r.subtype d g after)
    (h : (lookup (ch p C) r.laddr).dir = d ∧
      ((lookup (ch p C) r.laddr).sway.isSome && (lookup (ch p C) r.laddr).owner == r.agent) = grows ∧
      (lcFind (ch p C) r.laddr).isSome = hit ∧ (after = d ∨ (updateOf p C r after).place ≠ .full)) :
    Decides p C op r g after := by
  obtain ⟨rfl, rfl, rfl, h⟩ := h
  exact ⟨hp, row, h⟩
theorem witness_ReadsDecided_shd : Decides p0 C .rdShd (rq 0) grantS (.s (.ptrs [12]) none) :=
  decides (plain_of (by decide +kernel)) (.shdI (grows := false) (hit := false) 0) (by decide +kernel)
theorem witness_ReadsDecided_any : Decides p0 C .rdAny (rq 0) grantE (.x 12) :=
  decides (plain_of (by decide +kernel)) (.anyI (grows := false) (hit := false) 0) (by decide +kernel)
theorem witness_ReadsDecided_own : Decides p0 C .rdOwn (rq 0) grantE (.x 12) :=
  decides (plain_of (by decide +kernel)) (.ownI (grows := false) (hit := false) 0) (by decide +kernel)
theorem witness_ReadsDecided_cur : Decides p0 C .rdCur (rq 0) grantI .i :=
  decides (plain_of (by decide +kernel)) (.curI (grows := false) (hit := false) 0) (by decide +kernel)
/-- Agent n shares line L. -/
def shared (n : AgentId) : State := at0 (applyDir L (.s (.ptrs [n]) none) (.cirrus 0) n 0) s0
def pS (n : AgentId) : State := passEdges 0 (shared n)
theorem witness_ReadsDecided_shdS : Decides (pS 9) C .rdShd (rq 0) grantS (.s (.ptrs [9, 12]) none) :=
  decides (plain_of (by decide +kernel)) (.shdS (grows := false) (hit := false) 0 (.ptrs [9]) none (by decide)) (by decide +kernel)
theorem witness_ReadsDecided_anyS : Decides (pS 9) C .rdAny (rq 0) grantS (.s (.ptrs [9, 12]) none) :=
  decides (plain_of (by decide +kernel)) (.anyS (grows := false) (hit := false) 0 (.ptrs [9]) none (by decide)) (by decide +kernel)
theorem witness_ReadsDecided_ownS : Decides (pS 12) C .rdOwn (rq 0) grantE (.x 12) :=
  decides (plain_of (by decide +kernel)) (.ownS (grows := false) (hit := false) 0 none) (by decide +kernel)
theorem witness_ReadsDecided_curS : Decides (pS 9) C .rdCur (rq 0) grantI (.s (.ptrs [9]) none) :=
  decides (plain_of (by decide +kernel)) (.curS (grows := false) (hit := false) 0 (.ptrs [9]) none) (by decide +kernel)
theorem test_shdS : nx (.rdShd C (rq 0)) (shared 9) (fun t => dirAt t == .s (.ptrs [9, 12]) none &&
    (ch t C).vrs.map (fun x => (x.hdr.opcode, x.hdr.subtype)) == [(Verdict.go.code, rdataSub grantS 0)]) = true := by decide +kernel
/-- Speculation is off: the read goes through a slot of the tile. -/
def sSlow : State := withApp [(addrC 14 2 0x40, 0), (addrC 14 8 0x40, 0x6480)] s0
theorem witness_ReadsDecided_slow : lcFind (ch (passEdges 0 sSlow) C) L = none ∧ cfC (passEdges 0 sSlow) C 2 0x40 0 1 = 0 ∧
    mrsFree (ch (passEdges 0 sSlow) C) = true ∧ freeSlot (ch (passEdges 0 sSlow) C) (home L) = some 160 ∧
    nx (.rdShd C (rq 0)) sSlow (fun t => (ch t C).vrs.map (fun x => (x.hdr.opcode, x.hdr.subtype)) == [(Verdict.home.code, rdataSub grantS 0)] &&
      (ch t C).mrq.map (fun x => x.hdr.opcode) == [0x38] && (tile t C 14).slots.map (·.1) == [160]) = true := by decide +kernel
/-- Way 3 of the line's set holds it clean. -/
def sHit : State := at0 (fun k => putTag 14 128 3 ⟨lcTag L, true, false, false, false, false⟩ (putFrame 14 128 3 9 k)) s0
theorem witness_ReadsDecided_hit : FrameHit (passEdges 0 sHit) C L 3 := ⟨by decide +kernel, by decide +kernel⟩
theorem witness_ReadsDecided_hitS : Decides (passEdges 0 sHit) C .rdShd (rq 0) grantS (.s (.ptrs [12]) none) :=
  decides (plain_of (by decide +kernel)) (.shdI (grows := false) (hit := true) 0) (by decide +kernel)
theorem test_hit : nx (.rdShd C (rq 0)) sHit (fun t => (ch t C).dout.map (fun x => (x.hdr.opcode, x.data)) == [(0x32, 9)] &&
    (ch t C).vrs.map (·.hdr.opcode) == [Verdict.home.code] && (ch t C).mrq == []) = true := by decide +kernel

/-- Agent 12 is a Calsel ring agent (Table 20-3). -/
def s2 : State := at0 (fun k => { k with copy := [(0x5100 + 8 * 6, 2)] }) s0
/-- Agent 12 owns line L, or its region. -/
def sOwn : State := at0 (applyDir L (.x 12) (.cirrus 0) 12 0) s2
def sRegion : State := at0 (applyDir L (.x 12) (.stratus 0) 12 0) s2
theorem witness_DirectoryFollows : (lookup (ch (passEdges 0 sOwn) C) L).dir = .x 12 ∧
    nx (.evict C (rq 0)) sOwn (fun t => dirAt t == .i && (ch t C).vrs == []) = true := by decide +kernel
theorem witness_DirectoryFollows_evict : Plain (passEdges 0 sOwn) C .evict (rq 0) := plain_of (by decide +kernel)
theorem witness_DirectoryFollows_region : (lookup (ch (passEdges 0 sRegion) C) L).dir = .region 12 := by decide +kernel
theorem witness_DirectoryFollows_region_plain : Plain (passEdges 0 sRegion) C .evict (rq 0) := plain_of (by decide +kernel)
theorem test_evict : nx (.evict C (rq 0)) sRegion (fun t => dirAt t == .i && (ch t C).vrs == []) = true := by
  decide +kernel
/-- Agent n shares line L, and agent 12 is a ring agent. -/
def ringShared (n : AgentId) : State := at0 (applyDir L (.s (.ptrs [n]) none) (.cirrus 0) n 0) s2
def pR (n : AgentId) : State := passEdges 0 (ringShared n)
theorem witness_DirectoryFollows_reads : prefetchOn p0 C L = false ∧ lcFind (ch p0 C) L = none ∧ cfC p0 C 2 0x40 0 1 = 1 ∧
    promotes p0 C L 12 = true ∧ promotes (pS 12) C L 12 = true := by decide +kernel
theorem witness_DirectoryFollows_sharer : Plain (pR 12) C .evict (rq 0) := plain_of (by decide +kernel)
theorem test_evict_sharer : (lookup (ch (pR 12) C) L).dir = .s (.ptrs [12]) none ∧ (Sharers.ptrs [12]).yields 12 = true ∧
    nx (.evict C (rq 0)) (ringShared 12) (fun t => dirAt t == .i && (ch t C).openReqs == []) = true := by decide +kernel
theorem witness_DirectoryFollows_unrecorded : Plain (pR 9) C .evict (rq 0) := plain_of (by decide +kernel)
theorem test_evict_unrecorded : (lookup (ch (pR 9) C) L).dir.records 12 = false ∧
    nx (.evict C (rq 0)) (ringShared 9) (fun t => dirAt t == .s (.ptrs [9]) none) = true := by decide +kernel
/-- The update of a RD_OWN of line L waits for edge 1002. -/
def sLand : State := { at0 (fun k => { k with landings := [⟨L, 1002, .x 12, .stratus 0, 12, 0⟩] }) s0 with pclk := 1001 }
theorem witness_DirectoryFollows_edge : Waits sLand C ⟨L, 1002, .x 12, .stratus 0, 12, 0⟩ ∧ updateOf p0 C (rq 0) (.x 12) =
      ⟨L, 1002, .x 12, .stratus 0, 12, 0⟩ ∧
    (lookup (ch (passEdges 1 sLand) C) L).dir = .region 12 ∧ (ch (passEdges 1 sLand) C).landings = [] ∧
    (ch (passEdges 1 { sLand with pclk := 1000 }) C).landings ≠ [] :=
  ⟨⟨by decide +kernel, ⟨0, by decide +kernel⟩, by decide +kernel, by decide +kernel, by decide +kernel⟩, by decide +kernel⟩
theorem witness_DirectoryFollows_rows : ClearRow 12 ((lookup (ch sLand C) L).sway.isSome && (lookup (ch sLand C) L).owner == 12)
    false .rdOwn 0 (lookup (ch sLand C) L).dir grantE (.x 12) := by
  rw [show (lookup (ch sLand C) L).dir = .i by decide +kernel,
    show ((lookup (ch sLand C) L).sway.isSome && (lookup (ch sLand C) L).owner == 12) = false by decide +kernel]
  exact .ownI 0
/-- The only sharer asks for E, or stays a sharer. -/
theorem witness_LineRequests_upE : Decides (pS 12) C .upgrade (rq 2) grantE (.x 12) :=
  decides (plain_of (by decide +kernel)) (.upE (grows := false) (hit := false) 2 none (by decide)) (by decide +kernel)
theorem witness_LineRequests_upS : Decides (pS 12) C .upgrade (rq 1) grantS (.s (.ptrs [12]) none) :=
  decides (plain_of (by decide +kernel)) (.upS (grows := false) (hit := false) 1 (.ptrs [12]) none (by decide) (by decide) (by decide))
    (by decide +kernel)
theorem test_upE : nx (.upgrade C (rq 2)) (shared 12) (fun t => dirAt t == .x 12 &&
    (ch t C).vrs.map (fun x => (x.hdr.opcode, x.hdr.subtype)) == [(Verdict.cmp.code, rdataSub grantE 0)]) = true := by decide +kernel
theorem witness_LineRequests_invI : Decides p0 C .invAll (rq 0) grantI .i :=
  decides (plain_of (by decide +kernel)) (.invI (grows := false) (hit := false) 0 (.inr rfl)) (by decide +kernel)
theorem witness_LineRequests_holder : Plain (passEdges 0 sOwn) C .wrFull (rq 0) := plain_of (by decide +kernel)
theorem test_wrFull_holder : (afterWrite (ch (passEdges 0 sOwn) C) (rq 0).subtype 12 (.x 12)).1 = .i ∧
    placeFor (passEdges 0 sOwn) C L .i 12 0 ≠ .full ∧
    nx (.wrFull C (rq 0)) sOwn (fun t => (ch t C).vrs.map (fun x => (x.hdr.opcode, x.hdr.subtype)) == [(Verdict.cmp.code, rdataSub grantI 0)] &&
      (tile t C 14).ents.length == 1) = true := by decide +kernel

theorem witness_LineRequests_inv : Plain p0 C .invAll (rq 0) := plain_of (by decide +kernel)
theorem witness_LineRequests_wrFull : Plain p0 C .wrFull (rq 0) := plain_of (by decide +kernel)
theorem witness_LineRequests_upgrade : Plain p0 C .upgrade (rq 2) := plain_of (by decide +kernel)
theorem witness_LineRequests_wrPtl : Plain p0 C .wrPtl (rq 0) := plain_of (by decide +kernel)
theorem witness_LineRequests_atomic : Plain (passEdges 0 s2) C .atomic (rq 0) := plain_of (by decide +kernel)
theorem witness_LineRequests : ntOf (rq 0).subtype = false ∧ atMax p0 C (instOf p0 C (rq 0)) = false ∧
    0 < genFreeFor p0 C (home L) (instOf p0 C (rq 0)) ∧ (freeEntry (tile p0 C (home L))).isSome = true := by decide +kernel
theorem test_invAll : nx (.invAll C (rq 0)) s0 (fun t =>
    (ch t C).vrs.map (fun x => (x.hdr.opcode, x.due)) == [(Verdict.cmp.code, 1002)]) = true := by decide +kernel
theorem test_wrFull : nx (.wrFull C (rq 0)) s0 (fun t => (ch t C).vrs.map (fun x => x.hdr.opcode) == [Verdict.cmp.code] &&
    (ch t C).wexp.map (·.use) == [.clearSky 14 0] && (tile t C 14).ents.length == 1) = true := by decide +kernel
/-- A request that goes to its home tile: an entry, and no verdict. -/
def handed (i : Instr) : Bool := nx i s2 fun t => (ch t C).vrs == [] && (tile t C 14).ents.map (fun x => x.2.head) == [true]
theorem test_upgrade : handed (.upgrade C (rq 2)) = true := by decide +kernel
theorem test_wrPtl : handed (.wrPtl C (rq 0)) = true := by decide +kernel
theorem test_atomic : handed (.atomic C (rq 0)) = true := by decide +kernel

theorem witness_IngressAnswers : mayAccept p0 C .a = true ∧
    refusal p0 C (some .biConflict) (rq 0) (instOf p0 C (rq 0)) = none ∧
    ((tile p0 C (home L)).ents.any fun x => unanswered x.2 12 L) = false ∧ irqOpcode 0x0D = false ∧
    offChannel C L 1 = false := by decide +kernel
theorem test_biConflict : nx (.biConflict C (rq 0)) s0 (fun t => (ch t C).vrs ==
    [mkPkt (mkHdr Verdict.ack.code 12 0x77 L 0 0) 1001 2 (some 0)]) = true := by decide +kernel
theorem test_irqInvalidOpcode : nx (.irqInvalidOpcode C (rq 0) 0x0D) s0 (fun t =>
    (ch t C).vrs.map (fun x => (x.hdr.opcode, x.hdr.subtype)) == [(0x15, endSub errProtocol false)]) = true := by decide +kernel
/-- The first verdict of VRS: its opcode and SUBTYPE. -/
def saysV (v : Verdict) (sub : BitVec 7) (t : State) : Bool := (ch t C).vrs.map (fun x => (x.hdr.opcode, x.hdr.subtype)) == [(v.code, sub)]
/-- Write data to come is sunk. -/
def sunk (t : State) : Bool := (ch t C).wexp.map (·.use) == [.drop]
def away : ReqIn := { rq 0 with laddr := 0x21 * 64 }
def sQ0 : State := withApp [(queueAddr C 0, 0x50)] s0
/-- The channel has been fenced on the edge on which the request comes. -/
def sFenced : State := at0 (fun k => { k with fence := true, cause := .lcTags }) s0
theorem witness_IngressAnswers_fenced : mayAccept (passEdges 0 sFenced) C .a = true ∧ (ch (passEdges 0 sFenced) C).cause ≠ .none ∧
    refusal (passEdges 0 sFenced) C (some .rdOwn) (rq 0) (instOf (passEdges 0 sFenced) C (rq 0)) = none ∧
    verdictOut (ch (passEdges 0 sFenced) C) (ch (passEdges 0 sFenced) C).nextRid = false ∧
    nx (.rdOwn C (rq 0)) sFenced (fun t => (ch t C).vrs.map (fun x => (x.hdr.opcode, x.hdr.subtype.toNat % 64)) ==
      [(Verdict.err.code, errFenced)]) = true := by decide +kernel
theorem witness_IngressAnswers_misroute : mayAccept (passEdges 0 sQ0) C .a = true ∧ offChannel C away.laddr 1 = true ∧
    nx (.rdOwn C away) sQ0 (fun t => saysV .err (endSub errMisroute false) t && ((queueOf (ch t C) 0).at 1).wr == 1) = true ∧
    nx (.wrFull C away) sQ0 sunk = true := by decide +kernel
theorem witness_IngressAnswers_wrong : permitted .atomic (agentKind (ch p0 C) 12) = false ∧ offChannel C L 1 = false ∧
    crossesRegion L (linesOf .atomic 0) = false ∧
    nx (.atomic C (rq 0)) s0 (fun t => saysV .err (endSub errUnsupported false) t && sunk t) = true := by decide +kernel
theorem witness_IngressAnswers_dead : mayAccept (passEdges 0 sDead) C .a = true ∧ permitted .rdOwn (agentKind (ch (passEdges 0 sDead) C) 12) = true ∧
    badSubtype .rdOwn 0 = false ∧ agentDead (ch (passEdges 0 sDead) C) 12 = true ∧
    nx (.rdOwn C (rq 0)) sDead (saysV .err (endSub errAgentDead false)) = true := by decide +kernel
def sInst : State := at0 (fun k => { k with copy := k.copy ++ [(0x10040, 0x1F000000C)], ist := [(240, .quiesced)] }) s0
theorem witness_IngressAnswers_inst : instState (ch (passEdges 0 sInst) C) (instOf (passEdges 0 sInst) C (rq 0)) = .quiesced ∧
    agentDead (ch (passEdges 0 sInst) C) 12 = false ∧ nx (.rdOwn C (rq 0)) sInst (saysV .retry (endSub 3 false)) = true := by decide +kernel
theorem witness_IngressAnswers_dropped : refusal p0 C (some .evict) (rq 0) (instOf p0 C (rq 0)) = some 3 ∧
    refusal p0 C (some .rdSpec) away (instOf p0 C away) = some 1 ∧
    nx (.evict C (rq 0)) s0 (fun t => (ch t C).vrs == [] && (ch t C).openReqs == []) = true ∧
    nx (.rdSpec C away) s0 (fun t => (ch t C).vrs == []) = true := by decide +kernel
/-- Region 0 grants no right. -/
def sShut (spec : Word) : State := withApp [(addrC 14 0xB 0x110, 0), (addrC 14 2 0x40, spec)] s0
theorem rows_good : RowsGood (passEdges 0 (sShut 0)) C L ∧ RowsGood (passEdges 0 (sShut 1)) C L :=
  ⟨⟨by decide +kernel, by decide +kernel, by decide +kernel⟩, ⟨by decide +kernel, by decide +kernel, by decide +kernel⟩⟩
theorem witness_IngressAnswers_denied : refusal (passEdges 0 (sShut 1)) C (some .rdShd) (rq 0) (instOf (passEdges 0 (sShut 1)) C (rq 0)) = none ∧
    permits .rdShd (gateCheck (passEdges 0 (sShut 1)) C (.irq 12 (instOf (passEdges 0 (sShut 1)) C (rq 0))) L) = false ∧
    permits .wrFull (gateCheck (passEdges 0 (sShut 1)) C (.irq 12 (instOf (passEdges 0 (sShut 1)) C (rq 0))) L) = false ∧
    (cfC (passEdges 0 (sShut 1)) C 2 0x40 0 1 = 1 ∧ (ch (passEdges 0 (sShut 1)) C).pgRet.contains (regionOf L) = false ∧
      rawHeld (passEdges 0 (sShut 1)) C (home L) .lc = false ∧ lcFind (ch (passEdges 0 (sShut 1)) C) L = none ∧
      drainHold (ch (passEdges 0 (sShut 1)) C) = false ∧ openLine (ch (passEdges 0 (sShut 1)) C) L = false ∧
      collision (ch (passEdges 0 (sShut 1)) C) L (passEdges 0 (sShut 1)).pclk = false) ∧
    nx (.rdShd C (rq 0)) (sShut 1) (fun t => saysV .err (endSub errGate true) t && (ch t C).mrq.length == 1) = true ∧
    nx (.rdShd C (rq 0)) (sShut 0) (fun t => saysV .err (endSub errGate false) t && (ch t C).mrq == []) = true ∧
    nx (.wrFull C (rq 0)) (sShut 1) (fun t => saysV .cmp (rdataSub grantI 0) t && sunk t && (ch t C).notice.isSome) = true := by
  decide +kernel
/-- The channel drains; or a job holds the line; or a request has it open and the instance is at its maximum. -/
def sDraining : State := pw .draining s0
def sJob : State := at0 (fun k => { k with jobs := [{
  jobM false with tiles := (jobM false).tiles.set 14 { JobTile.start with line := some (L, 8) } }] }) s0
def sOpenL : State := withApp [(addrC 14 6 0x40, 0)] (withEnt { Entry.blank .request .none L 0 0 0 with
  op := some .rdOwn, agent := 9, tag := 5, port := some .a, head := true, arrived := true } s0)
theorem witness_IngressAnswers_retried : mayAccept (passEdges 0 sDraining) C .a = true ∧ drainHold (ch (passEdges 0 sDraining) C) = true ∧
    permits .rdOwn (gateCheck (passEdges 0 sDraining) C (.irq 12 (instOf (passEdges 0 sDraining) C (rq 0))) L) = true ∧
    nx (.rdOwn C (rq 0)) sDraining (saysV .retry (endSub 1 false)) = true := by decide +kernel
theorem witness_IngressAnswers_maint : maintHeld (ch (passEdges 0 sJob) C) L = true ∧ boundTo (ch (passEdges 0 sJob) C) 12 L = false ∧
    drainHold (ch (passEdges 0 sJob) C) = false ∧
    nx (.rdOwn C (rq 0)) sJob (saysV .retry (endSub 1 false)) = true := by decide +kernel
theorem witness_IngressAnswers_full : maintHeld (ch (passEdges 0 sOpenL) C) L = false ∧ openLine (ch (passEdges 0 sOpenL) C) L = true ∧
    atMax (passEdges 0 sOpenL) C (instOf (passEdges 0 sOpenL) C (rq 0)) = true ∧ drainHold (ch (passEdges 0 sOpenL) C) = false ∧
    nx (.rdOwn C (rq 0)) sOpenL (saysV .retry (endSub 0 false)) = true := by decide +kernel

-- ## Answers, data, and the egress ports (02, 03)

/-- An entry of a RD_OWN of agent 12 for line L. -/
def ent : Entry := { Entry.blank .request .none L 0 0 0 with
  op := some .rdOwn, agent := 12, tag := 0x77, port := some .a, head := true, arrived := true }
/-- A snoop to agent 9 that has crossed SNO. -/
def snp : Snp := ⟨9, L, .inv, 1, true, true, 4900, none, false, none, true, false, false⟩
/-- A CXL host of agent 9 too. -/
def sSnp : State := withEnt { ent with fetched := true, found := .x 9, snoops := [snp] } s0
/-- The home tag of the entry. -/
def tagE : Tag := homeTagNow (ch sSnp C) 14 0
def rsp : RspIn := ⟨0, 9, tagE, L⟩
theorem witness_AnswersTaken : portOpen (passEdges 0 sSnp) C .sni = true ∧ (ch (passEdges 0 sSnp) C).cause = .none ∧
    (tagged (ch (passEdges 0 sSnp) C) rsp.tag).isSome = true ∧ answerAllowed (ch (passEdges 0 sSnp) C)
      { ent with fetched := true, found := .x 9, snoops := [snp] } snp .i = true ∧
    nx (.rspI C rsp) sSnp (fun t => (entry? (tile t C 14) 0).any fun e => e.snoops.any fun q => q.ans == some .i) = true := by
  decide +kernel
/-- A snoop of operation op to a ring partner. -/
def sSnpOp (op : SnpOp) : State :=
  at0 (fun k => { k with copy := [(0x5100 + 8 * 4, 0x200000000), (0x5100 + 8 * 6, 1)] })
    (withEnt { ent with fetched := true, found := .x 9, snoops := [{ snp with op := op }] } s0)
def answers (i : Instr) (op : SnpOp) (x : Ans) (data : Bool) : Bool :=
  nx i (sSnpOp op) fun t => (entry? (tile t C 14) 0).any fun e => e.snoops.any fun q => q.ans == some x && q.dataDue == data
theorem test_rspS : answers (.rspS C rsp) .data .s false = true := by decide +kernel
theorem test_rspE : answers (.rspE C rsp) .cur .e false = true := by decide +kernel
theorem test_rspID : answers (.rspID C rsp) .fwdInv .iD true = true := by decide +kernel
theorem test_rspSD : answers (.rspSD C rsp) (.fwd true) .sD true = true := by decide +kernel
def din (tag : Tag) (a : AgentId) : DataIn := ⟨0, a, tag, L, false, 5, 0, false⟩
def sSdata : State := withEnt { ent with fetched := true, snoops := [{ snp with crossed := false, dataDue := true, ans := some .iD }] } s0
theorem witness_AnswersTaken_sdata : portOpen (passEdges 0 sSdata) C .din = true ∧
    ((snoopOf (ch (passEdges 0 sSdata) C) (din tagE 9)).any fun y => y.2.2.2.dataDue && !y.2.2.2.crossed) = true ∧
    nx (.sdata C (din tagE 9)) sSdata (fun t => (entry? (tile t C 14) 0).any fun e => e.snoops.any fun q => q.crossed) = true := by
  decide +kernel
def sMem (k : MemKind) : State := withEnt { ent with fetched := true, mem := some (k, 4900) } s0
theorem witness_AnswersTaken_mem : portOpen (passEdges 0 (sMem .rd)) C .mrs = true ∧ (ch (passEdges 0 (sMem .rd)) C).cause = .none ∧
    (tagged (ch (passEdges 0 (sMem .rd)) C) tagE).isSome = true := by decide +kernel
/-- The answer of a memory request is on its way to the tile. -/
def memTaken (i : Instr) (k : MemKind) : Bool :=
  nx i (sMem k) fun t => (entry? (tile t C 14) 0).any fun e => e.memIn && e.memAns.isNone
theorem test_memFill : memTaken (.memFill C (din tagE 12)) .rd = true := by decide +kernel
theorem test_memRmw : memTaken (.memRmw C (din tagE 12)) .wrPtl = true := by decide +kernel
theorem test_memAtomRes : memTaken (.memAtomRes C (din tagE 12)) .atom = true := by decide +kernel

/-- A write that waits for its data in entry 0, or one that was refused. -/
def sWdata (u : WUse) : State := at0 (fun k => { k with
  wexp := [⟨0, .a, .wrFull, 12, 0x77, L, 0, 4900, u, false, none, none⟩], openReqs := [{ oreq with op := .wrFull, awaitW := true }] })
  (withEnt { ent with op := some .wrFull } s0)
theorem witness_DataAndErrors : portOpen (passEdges 0 (sWdata .drop)) C .din = true ∧ portOpen p0 C .sni = true ∧
    snoopOf (ch p0 C) (din 5 12) = none ∧
    (landingFor (ch (passEdges 0 (sWdata .drop)) C) (din 0x77 12)).isSome = true ∧
    (landingFor (ch (passEdges 0 (sWdata (.flow 14 0))) C) (din 0x77 12)).isSome = true ∧
    landingFor (ch p0 C) (din 0x77 12) = none ∧ tagged (ch p0 C) 5 = none ∧
    nx (.wdata C (din 0x77 12)) (sWdata .drop) (fun t => (ch t C).wexp == []) = true ∧
    nx (.wdata C (din 0x77 12)) (sWdata (.flow 14 0)) (fun t => (ch t C).wexp.map (·.arrived) == [true]) = true := by decide +kernel
/-- Sub-buffer 2 of queue 1 has room (Tables 15-2, 15-4). -/
def sQ1 : State := withApp [(queueAddr C 1, 0x500), (queueAddr C 3, 0x555), (queueAddr C 8, 0x5500), (queueAddr C 10, 0x500),
  (queueAddr C 2, 0x5000), (queueAddr C 5, 0x500)] s0
/-- A protocol-error record, and nothing else. -/
def protocolRecord (i : Instr) : Bool := nx i sQ1 fun t => ((queueOf (ch t C) 1).at 2).wr == 1 && (ch t C).openReqs == []
theorem test_wdata_unmatched : protocolRecord (.wdata C (din 0x77 12)) = true := by decide +kernel
theorem test_sdata_unmatched : protocolRecord (.sdata C (din 5 12)) = true := by decide +kernel
theorem test_rspI_unmatched : protocolRecord (.rspI C ⟨0, 9, 5, L⟩) = true := by decide +kernel
theorem test_inboundInvalidOpcode : inboundOpcode .mrs 0x30 = false ∧
    protocolRecord (.inboundInvalidOpcode C .mrs ⟨0, 9, 5, L⟩ 0x30) = true := by decide +kernel
/-- Agent 9 has answered; or no snoop of the entry is agent 12's. -/
theorem witness_DataAndErrors_sni : portOpen (passEdges 0 sSnp) C .sni = true ∧ (ch (passEdges 0 sSnp) C).cause = .none ∧
    (tagged (ch (passEdges 0 sSnp) C) tagE).any (fun x => x.2.2.snoops.all (·.agent != 12)) = true ∧
    nx (.rspI C ⟨0, 12, tagE, L⟩) (withApp [(queueAddr C 1, 0x500)] sSnp) (fun t => ((queueOf (ch t C) 1).at 2).wr == 1 &&
      (tile t C 14).ents == (tile sSnp C 14).ents) = true := by decide +kernel
/-- A slot of tile 14 waits for the data of an early fetch, or of a prefetch. -/
def slot (pf : Bool) : NSlot := ⟨L, pf, 0, 12, 0x77, 0, grantS, 10, false⟩
def sSlotP (pf : Bool) (s : State) : State := modTile C 14 (fun x => { x with slots := [(160, slot pf)] }) s
def tagS : Tag := homeTagNow (ch (sSlotP false s0) C) 14 160
theorem witness_DataAndErrors_mrs : portOpen p0 C .mrs = true ∧ (ch p0 C).cause = .none ∧
    tagged (ch (passEdges 0 (sMem .rd)) C) tagE = some (14, 0, { ent with fetched := true, mem := some (.rd, 4900) }) ∧
    (taggedSlot (ch (passEdges 0 (sSlotP false s0)) C) tagS).isSome = true ∧
    tagged (ch (passEdges 0 (sSlotP false s0)) C) tagS = none ∧ taggedSlot (ch p0 C) 5 = none ∧
    nx (.memRmw C (din tagE 12)) (withApp [(queueAddr C 1, 0x500)] (sMem .rd)) (fun t => ((queueOf (ch t C) 1).at 2).wr == 1 &&
      (tile t C 14).ents == (tile (sMem .rd) C 14).ents) = true ∧
    nx (.memRmw C (din tagS 12)) (sSlotP false sQ1) (fun t => ((queueOf (ch t C) 1).at 2).wr == 1 &&
      (tile t C 14).slots == [(160, slot false)]) = true ∧
    nx (.memFill C (din 5 12)) (at0 (fun k => { k with mrsHeld := [(5, 9000), (7, 9000)] }) sQ1) (fun t =>
      ((queueOf (ch t C) 1).at 2).wr == 1 && (ch t C).mrsHeld == [(7, 9000)]) = true := by decide +kernel

def pktV : EgrPkt := mkPkt (mkHdr Verdict.cmp.code 12 0x77 L 0 0) 1000 2 (some 0)
def sOut : State := at0 (fun k => { k with vrs := [pktV], openReqs := [oreq], stallVrs := true }) s0
theorem witness_EgressPorts : serving (passEdges 1 sOut) C = true ∧
    crossing (ch (passEdges 1 sOut) C) .vrs ≠ [] ∧
    (ch (passEdges 1 sOut) C).lastOut .vrs ≠ (passEdges 1 sOut).pclk + 1 ∧
    nx (.egressCrossing C .vrs 1) sOut (fun t => (ch t C).vrs == [] && (ch t C).openReqs == [] && !(ch t C).stallVrs) = true := by
  decide +kernel
/-- VRS has moved its packets of this edge (R26). -/
def sOut1 : State := at0 (fun k => { k with lastVrs := 1002 }) sOut
theorem witness_EgressPorts_edge : serving (passEdges 1 sOut1) C = true ∧
    crossing (ch (passEdges 1 sOut1) C) .vrs ≠ [] ∧
    (ch (passEdges 1 sOut1) C).lastOut .vrs = (passEdges 1 sOut1).pclk + 1 ∧
    nx (.egressCrossing C .vrs 1) sOut1 (fun t => (ch t C).vrs == [pktV] && (ch t C).openReqs == [oreq]) = true := by
  decide +kernel
def sStall : State := at0 (fun k => { k with sno := [{ pktV with due := 10 }] }) { sQ1 with pclk := 100000 }
theorem witness_EgressPorts_stall : stallDue sStall C .sno = true ∧
    nx (.egressStall C .sno) sStall (fun t => (ch t C).stallSno && (ch t C).sno.length == 1 &&
      ((queueOf (ch t C) 10).at 2).wr == 1) = true := by decide +kernel
-- ## Engines and arbiters (08)

/-- The flow store of channel 14 holds microword w at address 100, which RD_OWN's vector names (Tables 8-4, 8-6). -/
def withWord (w : Word) (s : State) : State :=
  at0 (fun k => putMicroword 100 w (putMicroword 2 (BitVec.ofNat 64 (100 * 2 ^ 8)) k)) s
/-- Engine 0 of tile 14 runs entry 0 at address 100. -/
def running0 (w : Word) (e : Entry) : State :=
  modTile C 14 (fun x => { x with run0 := some 0 }) (withWord w (withEnt { e with started := true, resume := 100 } s0))
theorem witness_Arbiters_dispatch : enginesRun (withWord 0 (withEnt ent s0)) C = true ∧
    leastBy (flowRank (withWord 0 (withEnt ent s0)) C) (readyFlows (withWord 0 (withEnt ent s0)) C 14) = some (0, ent) ∧
    [false, true].find? (fun o => engineUp (withWord 0 (withEnt ent s0)) C 14 o &&
      (engineRun (tile (withWord 0 (withEnt ent s0)) C 14) o).isNone) = some false ∧
    (∀ o, (engineRun (tile (withWord 0 (withEnt ent s0)) C 14) o).isSome = true →
      engineUp (withWord 0 (withEnt ent s0)) C 14 o = true) ∧
    rowOutcome (ch (withWord 0 (withEnt ent s0)) C) (rowKey 7 0 (vectorOf ent / 8)) = .good ∧
    nx (.engineDispatch C 14) (withWord 0 (withEnt ent s0)) (fun t => engineRun (tile t C 14) false == some 0 &&
      (entry? (tile t C 14) 0).any fun e => e.started && e.resume == 100) = true := by decide +kernel
/-- A request at the port of the snoop filter's bank, of a flow or of an early fetch. -/
def bq (w : BankWho) : BankReq := ⟨w, 4, 0, 4900, 0, false⟩
def sReq (w : BankWho) : State := modTile C 14 (fun x => { x with sfReqs := [bq w] }) (withEnt ent s0)
theorem witness_Arbiters_grant : enginesRun (sReq (.flow 0)) C = true ∧ grantOf (tile (sReq (.flow 0)) C 14) .sf = none ∧
    bankBest (sReq (.flow 0)) C 14 .sf = some (bq (.flow 0)) ∧
    nx (.bankPortGrant C 14 .sf) (sReq (.flow 0)) (fun t => grantOf (tile t C 14) .sf == some ⟨0, none, 0⟩ &&
      reqsOf (tile t C 14) .sf == []) = true := by decide +kernel
theorem witness_Arbiters_fetch : bankBest (sReq (.fetch 0)) C 14 .sf = some (bq (.fetch 0)) ∧
    nx (.bankPortGrant C 14 .sf) (sReq (.fetch 0)) (fun t => grantOf (tile t C 14) .sf == none &&
      reqsOf (tile t C 14) .sf == []) = true := by decide +kernel
/-- A maintenance step has asked for the port. -/
theorem witness_Arbiters_step : bankBest (sReq .reclaim) C 14 .sf = some (bq .reclaim) ∧ grantOf (tile (sReq .reclaim) C 14) .sf = none ∧
    enginesRun (sReq .reclaim) C = true ∧
    nx (.bankPortGrant C 14 .sf) (sReq .reclaim) (fun t => grantOf (tile t C 14) .sf == none && reqsOf (tile t C 14) .sf == []) = true := by
  decide +kernel
def sReqJ : State := at0 (fun k => { k with jobs := [⟨7, 0, .vacateDir, 1, 0, Vector.replicate 16 JobTile.start, 0, 0⟩] }) (sReq (.step 7))
theorem witness_Arbiters_job : bankBest sReqJ C 14 .sf = some (bq (.step 7)) ∧ stepWaits (ch sReqJ C) (.step 7) = true ∧
    nx (.bankPortGrant C 14 .sf) sReqJ (fun t => (grantOf (tile t C 14) .sf).map (·.ent) == some (BankWho.step 7).holder) = true := by
  decide +kernel
def sHeld : State := modTile C 14 (fun x => { x with sfGrant := some ⟨0, none, 4095⟩ })
  (withApp [(queueAddr C 3, 0x555)] (running0 0 { ent with runLen := 4095, cutoffs := 2 }))
theorem witness_Arbiters_cutoff : enginesRun sHeld C = true ∧ engineHeld sHeld C 14 false = some 0 ∧ bankHeld sHeld C 14 .sf = some 0 ∧
    ent.isRequest = true ∧ (share sHeld C 3 0).1 ≠ 0 ∧
    nx (.engineHoldCutoff C 14 false) sHeld (fun t => engineRun (tile t C 14) false == none &&
      (entry? (tile t C 14) 0).any fun e => e.aborted && e.cutoffs == 3) = true ∧
    nx (.bankHoldCutoff C 14 .sf) sHeld (fun t => grantOf (tile t C 14) .sf == none && (reqsOf (tile t C 14) .sf).length == 1 &&
      ((queueOf (ch t C) 3).at 0).wr == 1) = true := by decide +kernel
def sStarve : State := withApp [(queueAddr C 3, 0x555)] (withEnt ent { s0 with tick := 2 ^ 20 })
/-- The flow of a reclaim entry has been cut off twice. -/
def reclaims : Entry := { Entry.blank .background .reclaim L 0 0 0 with fetched := true, runLen := 4095, cutoffs := 2 }
def sHeldB : State := modTile C 14 (fun x => { x with sfGrant := some ⟨0, none, 4095⟩ })
  (withApp [(queueAddr C 3, 0x555)] (running0 0 reclaims))
theorem witness_Arbiters_third : enginesRun sHeldB C = true ∧ engineHeld sHeldB C 14 false = some 0 ∧ bankHeld sHeldB C 14 .sf = some 0 ∧
    reclaims.isRequest = false ∧ (ch sHeldB C).simplex = false ∧ engineUp sHeldB C 14 false = true ∧
    nx (.engineHoldCutoff C 14 false) sHeldB (fun t => !engineUp t C 14 false && asked (ch t C) (.failover 14 false)) = true ∧
    nx (.bankHoldCutoff C 14 .sf) sHeldB (fun t => !engineUp t C 14 false && asked (ch t C) (.failover 14 false)) = true := by decide +kernel
theorem witness_Arbiters_starve : starveDue sStarve C 14 true 0 = true ∧
    nx (.starvationOnset C 14 true 0) sStarve (fun t => (ch t C).starveE == 1 && (ch t C).starveT == 0x4000 &&
      !starveDue t C 14 true 0) = true := by decide +kernel
def sStarveB : State := { sReq (.flow 0) with tick := 2 ^ 20 }
theorem witness_Arbiters_starveBank : starveDue sStarveB C 14 false 4 = true ∧
    nx (.starvationOnset C 14 false 4) sStarveB (fun t => (ch t C).starveE == 0x10 &&
      (reqsOf (tile t C 14) .sf).map (·.starved) == [true]) = true := by decide +kernel

/-- The parts of AtWord, as one decidable statement. -/
theorem at_of {s : State} {cls : Nat} {e : Entry}
    (h : stepReady s C 14 false = some (0, e) ∧ e.aborted = false ∧
      rowOutcome (ch s C) (rowKey 7 0 (e.resume.toNat / 8)) = .good ∧
      (∀ r ∈ entryRows 0, overOutcome (tile s C 14) (14 : TileId) r.1 r.2 = .good) ∧
      wordClass (microword (ch s C) e.resume.toNat) = cls ∧ wordIllegal (microword (ch s C) e.resume.toNat) = false) :
    AtWord s C 14 false cls 0 e :=
  ⟨h.1, h.2.1, ⟨h.2.2.1, h.2.2.2.1⟩, h.2.2.2.2.1, h.2.2.2.2.2⟩
/-- The entry as it runs. -/
def run (e : Entry) : Entry := { e with started := true, resume := 100 }
/-- The flow's entry after the command satisfies p. -/
def then0 (i : Instr) (s : State) (p : Entry → Bool) : Bool := nx i s fun t => (entry? (tile t C 14) 0).any p
theorem witness_Microsteps_move : AtWord (running0 0 ent) C 14 false 0 0 (run ent) := at_of (by decide +kernel)
theorem test_move : then0 (.move C 14 false 2 7) (running0 0 ent) (· == { stepped 5000 (run ent) with reg2 := 7 }) = true := by
  decide +kernel
set_option maxRecDepth 100000 in
theorem test_move_context : then0 (.move C 14 false 6 7) (running0 0 ent) (·.progress == 1) = true := by decide +kernel
theorem witness_Microsteps_branch : AtWord (running0 0x2008 ent) C 14 false 8 0 (run ent) := at_of (by decide +kernel)
theorem test_branch : then0 (.branch C 14 false true) (running0 0x2008 ent) (·.resume == 0x20) = true ∧
    then0 (.branch C 14 false false) (running0 0x2008 ent) (·.resume == 101) = true := by decide +kernel
theorem witness_Microsteps_tracker : AtWord (running0 9 ent) C 14 false 9 0 (run ent) := at_of (by decide +kernel)
theorem test_tracker : then0 (.tracker C 14 false .plan) (running0 9 ent) (·.progress == 1) = true := by decide +kernel
/-- A recovery that has released line L, for which a request waits behind it. -/
def recovers : Entry := Entry.blank .background .recovery L 0 0 0
def sChain : State := modTile C 14 (fun x => { x with ents := x.ents ++ [(1, { ent with rid := 1, seat := 1, head := false })] })
  (running0 9 { recovers with fetched := true })
theorem witness_Microsteps_chain : AtWord sChain C 14 false 9 0 (run { recovers with fetched := true }) ∧
    (nextHead (ch sChain C) L).map (·.1) = some 1 ∧
    nx (.tracker C 14 false .chain) sChain (fun t => (entry? (tile t C 14) 1).any (·.head)) = true ∧
    nextHead (ch (running0 9 ent) C) L = none ∧ (tile (running0 9 ent) C 14).waits = [] ∧ (ch (running0 9 ent) C).hoff = [] ∧
    (tile (running0 9 ent) C 14).bgWaits = [] ∧
    then0 (.tracker C 14 false .chain) (running0 9 ent) (· == stepped 5000 (run ent)) = true :=
  ⟨at_of (by decide +kernel), by decide +kernel⟩
/-- A flow with a snoop out waits. -/
def waits : Entry := { ent with fetched := true, found := .x 9, snoops := [snp] }
theorem witness_Microsteps_wait : AtWord (running0 7 waits) C 14 false 7 0 (run waits) := at_of (by decide +kernel)
theorem witness_Microsteps_waitMet : AtWord (running0 7 ent) C 14 false 7 0 (run ent) := at_of (by decide +kernel)
theorem test_wait : due (running0 7 waits) C 14 0 (run waits) = .wait ∧ due (running0 7 ent) C 14 0 (run ent) ≠ .wait ∧
    nx (.wait C 14 false) (running0 7 waits) (fun t => engineRun (tile t C 14) false == none) = true ∧
    then0 (.wait C 14 false) (running0 7 ent) (· == stepped 5000 (run ent)) = true := by decide +kernel
def ends : Entry := { ent with fetched := true, updated := true, verdict := true, sentData := true, rdata := some (5, false) }
theorem witness_Microsteps_end : AtWord (running0 0xA ends) C 14 false 0xA 0 (run ends) := at_of (by decide +kernel)
theorem test_endFlow : due (running0 0xA ends) C 14 0 (run ends) = .fin ∧
    then0 (.endFlow C 14 false) (running0 0xA ends) (·.ended) = true := by decide +kernel
def sends (v : Bool) : Entry := { ends with sentData := false, verdict := v }
theorem witness_Microsteps_verdict : AtWord (running0 6 (sends false)) C 14 false 6 0 (run (sends false)) := at_of (by decide +kernel)
theorem witness_Microsteps_data : AtWord (running0 6 (sends true)) C 14 false 6 0 (run (sends true)) := at_of (by decide +kernel)
theorem test_send : due (running0 6 (sends false)) C 14 0 (run (sends false)) = .verdict ∧
    due (running0 6 (sends true)) C 14 0 (run (sends true)) = .data ∧ ent.pool = false ∧
    then0 (.send C 14 false) (running0 6 (sends false)) (·.verdict) = true ∧
    then0 (.send C 14 false) (running0 6 (sends true)) (·.sentData) = true := by decide +kernel

theorem witness_FlowAccesses_ask : AtWord (running0 1 ent) C 14 false 1 0 (run ent) := at_of (by decide +kernel)
theorem test_dirRd_asks : grantOf (tile (running0 1 ent) C 14) .sf = none ∧
    nx (.dirRd C 14 false) (running0 1 ent) (fun t =>
      (reqsOf (tile t C 14) .sf).map (·.who) == [.flow 0]) = true := by decide +kernel
theorem witness_FlowAccesses_dirRd : AtWord (granted .sf (running0 1 ent)) C 14 false 1 0 (run ent) := at_of (by decide +kernel)
theorem witness_FlowAccesses_sf : Holds (granted .sf (running0 1 ent)) C 14 .sf 0 L :=
  ⟨⟨0, none, 0⟩, by decide +kernel⟩
theorem test_dirRd : (∀ x ∈ dirRows L, rowOutcome (ch (granted .sf (running0 1 ent)) C) (rowKey x.1 14 x.2) = .good) ∧
    (lookup (ch (granted .sf (running0 1 ent)) C) L).bad = false ∧ underRecovery (ch (granted .sf (running0 1 ent)) C) L = false ∧
    then0 (.dirRd C 14 false) (granted .sf (running0 1 ent)) (fun e => e.fetched && e.found == .i) = true := by decide +kernel
def reads : Entry := { ent with fetched := true }
theorem witness_FlowAccesses_dirWr : AtWord (granted .sf (running0 2 reads)) C 14 false 2 0 (run reads) := at_of (by decide +kernel)
theorem test_dirWr : due (granted .sf (running0 2 reads)) C 14 0 (run reads) = .dirWr ∧
    landingOn (granted .sf (running0 2 reads)) C L = false ∧ recoveryAsked (ch (granted .sf (running0 2 reads)) C) L = false ∧
    setStamp (tile (granted .sf (running0 2 reads)) C 14) L = (run reads).stamp ∧
    placeFor (granted .sf (running0 2 reads)) C L (flowEnd (granted .sf (running0 2 reads)) C (run reads)).2 12 3 ≠ .full ∧
    nx (.dirWr C 14 false 3) (granted .sf (running0 2 reads)) (fun t => (lookup (ch t C) L).dir == .region 12 &&
      (entry? (tile t C 14) 0).any fun e => e.updated && e.grant == grantE) = true := by decide +kernel
def places : Entry := { reads with toPlace := [(L, 5, false, 0)], rdata := some (5, false) }
theorem witness_FlowAccesses_place : AtWord (granted .lc (running0 3 places)) C 14 false 3 0 (run places) := at_of (by decide +kernel)
theorem witness_FlowAccesses_lc : Holds (granted .lc (running0 3 places)) C 14 .lc 0 L :=
  ⟨⟨0, none, 0⟩, by decide +kernel⟩
theorem test_lcAcc_place : due (granted .lc (running0 3 places)) C 14 0 (run places) = .place ∧
    retiring (ch (granted .lc (running0 3 places)) C) (run places) = false ∧
    (∀ copy, copy < 2 → ∀ h, h < 2 →
      rowOutcome (ch (granted .lc (running0 3 places)) C) (rowKey (3 + copy) 14 (lcSet L * 2 + h)) = .good) ∧
    then0 (.lcAcc C 14 false) (granted .lc (running0 3 places)) (·.toPlace == []) = true := by decide +kernel
def lcReads : Entry := { reads with updated := true, source := .lineCache }
/-- Way 3 of the line's set holds it clean. -/
def sLcRead : State := at0 (fun k => putTag 14 128 3 ⟨lcTag L, true, false, false, false, false⟩ (putFrame 14 128 3 9 k))
  (granted .lc (running0 3 lcReads))
theorem witness_FlowAccesses_lcRead : AtWord sLcRead C 14 false 3 0 (run lcReads) := at_of (by decide +kernel)
theorem test_lcAcc_read : due sLcRead C 14 0 (run lcReads) = .lcRead ∧ (lcRead C (occE 14 (run lcReads)) L sLcRead).2 = some (9, false) ∧
    then0 (.lcAcc C 14 false) sLcRead (·.rdata == some (9, false)) = true := by decide +kernel
def snoops : Entry := { ent with fetched := true, found := .x 9, snoops := [{ snp with out := false, crossed := false, tries := 0 }] }
theorem witness_FlowAccesses_snoop : AtWord (running0 4 snoops) C 14 false 4 0 (run snoops) := at_of (by decide +kernel)
theorem test_snoop : due (running0 4 snoops) C 14 0 (run snoops) = .snoop ∧ sdataFree (ch (running0 4 snoops) C) = true ∧
    then0 (.snoop C 14 false) (running0 4 snoops) (fun e => e.snoops.all (·.out)) = true := by decide +kernel
def memReads : Entry := { reads with updated := true, source := .memory }
theorem witness_FlowAccesses_mem : AtWord (running0 5 memReads) C 14 false 5 0 (run memReads) := at_of (by decide +kernel)
theorem witness_FlowAccesses_fill : placesWb (running0 5 memReads) C L = false := by decide +kernel
theorem test_memreq : due (running0 5 memReads) C 14 0 (run memReads) = .memReq ∧ mrsFree (ch (running0 5 memReads) C) = true ∧
    then0 (.memreq C 14 false) (running0 5 memReads) (·.mem == some (.rd, 5000)) = true := by decide +kernel
theorem witness_FlowAccesses_illegal : stepReady (running0 0xB ent) C 14 false = some (0, run ent) ∧
    wordIllegal (microword (ch (running0 0xB ent) C) 100) = true ∧
    rowOutcome (ch (running0 0xB ent) C) (rowKey 7 0 (100 / 8)) = .good ∧ (ch (running0 0xB ent) C).simplex = false ∧
    nx (.illegalMicroword C 14 false) (running0 0xB ent) (fun t => !engineUp t C 14 false &&
      asked (ch t C) (.failover 14 false)) = true := by decide +kernel

-- ## Ends and timeouts (07, 10)

theorem witness_EndsAndTimeouts_release : serving (withEnt { ends with ended := true } s0) C = true ∧
    releasable { ends with ended := true } = true ∧
    (ch (withEnt { ends with ended := true } s0) C).hoff = [] ∧
    nx (.trackerEntryRelease C 14 0) (withEnt { ends with ended := true } s0) (fun t => (tile t C 14).ents == []) = true := by
  decide +kernel
def anc : Anchor := ⟨L, 0, 14, some 100⟩
def sAnchor : State := at0 (fun k => { k with anchors := [(12, anc)] }) { withApp [(queueAddr C 1, 5)] s0 with tick := 2 ^ 24 }
theorem witness_EndsAndTimeouts_anchor : lapseDue sAnchor C 12 = some anc ∧
    nx (.anchorLapse C 12) sAnchor (fun t => (ch t C).anchors == [] && ((queueOf (ch t C) 1).at 0).wr == 1) = true := by decide +kernel
def sMissing : State := { sWdata .drop with tick := 2 ^ 20 }
theorem witness_EndsAndTimeouts_wdata : missingData sMissing C 12 0x77 L =
      some ⟨0, .a, .wrFull, 12, 0x77, L, 0, 4900, .drop, false, none, none⟩ ∧
    nx (.wdataTimeout C 12 0x77 L) sMissing (fun t => (ch t C).wexp == []) = true := by decide +kernel
def sLate : State := { sSnp with tick := 2 ^ 30, life := [] }
theorem witness_EndsAndTimeouts_snoop : (snoopLate (alone sLate) C tagE 9 L).isSome = true ∧ agentLifeB (alone sLate) 9 = .live ∧
    nx (.snoopTimeout C tagE 9 L) (alone sLate) (fun t => agentLifeB t 9 != .live) = true := by decide +kernel
def sMemLate : State := { withApp [(queueAddr C 5, 0x500)] (sMem .rd) with tick := 2 ^ 30 }
theorem witness_EndsAndTimeouts_mem : serving sMemLate C = true ∧ (ch sMemLate C).cause = .none ∧
    tagged (ch sMemLate C) tagE = some (14, 0, { ent with fetched := true, mem := some (.rd, 4900) }) ∧
    4900 + ringTmo sMemLate C ≤ sMemLate.tick ∧
    nx (.memTimeout C tagE) sMemLate (fun t => (ch t C).mrsHeld.length == 1 && ((queueOf (ch t C) 5).at 2).wr == 1 &&
      (entry? (tile t C 14) 0).any fun e => e.aborted && e.mem == none) = true := by decide +kernel
def sMrs : State := at0 (fun k => { k with mrsHeld := [(7, 5000), (7, 5001), (8, 10)] }) s0
theorem witness_EndsAndTimeouts_mrs : serving sMrs C = true ∧
    nx (.mrsReservationEnd C 7) sMrs (fun t => (ch t C).mrsHeld == [(7, 5001), (8, 10)]) = true := by decide +kernel
/-- A request waits in a handoff buffer for the entry that goes. -/
def hq : Waiter := ⟨some .a, rq 0, .rdOwn, L, 0, 0, 5, 14, false, false⟩
def sHoff : State := at0 (fun k => { k with hoff := [hq], nextRid := 6, openReqs := [{ oreq with rid := 5 }] })
  (withEnt { ends with ended := true } s0)
theorem witness_EndsAndTimeouts_hoff : enginesRun sHoff C = true ∧ entry? (tile sHoff C 14) 0 = some { ends with ended := true } ∧
    releasable { ends with ended := true } = true ∧
    nx (.trackerEntryRelease C 14 0) sHoff (fun t => (ch t C).hoff == [] && (tile t C 14).ents.map (fun x => x.2.rid) == [5]) = true := by
  decide +kernel
def sSlotLate (pf : Bool) : State := { sSlotP pf (withApp [(queueAddr C 5, 0x500)] s0) with tick := 2 ^ 30 }
theorem witness_EndsAndTimeouts_slot : serving (sSlotLate false) C = true ∧ (ch (sSlotLate false) C).cause = .none ∧
    taggedSlot (ch (sSlotLate false) C) tagS = some (14, 160, slot false) ∧ 10 + ringTmo (sSlotLate false) C ≤ (sSlotLate false).tick ∧
    taggedSlot (ch (sSlotLate true) C) tagS = some (14, 160, slot true) ∧
    nx (.memTimeout C tagS) (sSlotLate false) (fun t => (tile t C 14).slots == [] && (ch t C).mrsHeld.length == 1 &&
      ((queueOf (ch t C) 5).at 2).wr == 1) = true ∧
    nx (.memTimeout C tagS) (sSlotLate true) (fun t => (tile t C 14).slots == [] && ((queueOf (ch t C) 5).at 2).wr == 1) = true := by
  decide +kernel

-- ## The rings (10)

def flit0 (cls : FClass) : Flit := mkFlit 14 19 cls 0 (mkHdr 0 0 0 L 0 0) 0 .steward
def flit : Flit := flit0 .rcv
/-- X-ring 3 with a flit in the slot at position 2. -/
def sRing : State := at0 (fun k => k.setRing 3 ((k.ring 3).setSlot 2 { (k.ring 3).slot 2 with flit := some flit })) s0
theorem witness_RingSteps : ringRuns sRing C 3 = true ∧ nx (.flitHop C 3 []) sRing (fun t =>
    (((ch t C).ring 3).slot 3).flit == some flit && ((ch t C).ring 3).phase == 1) = true := by decide +kernel
def sResend : State := at0 (fun k =>
  let x := k.ring 3
  k.setRing 3 ((x.setStop 0 { x.stop 0 with sent := [(flit, 4)], again := [flit0 .rsp] }).setStop 1 { x.stop 1 with dropping := true })) s0
theorem witness_RingSteps_resend : resendDue sResend C 3 0 = true ∧ nx (.resend C 3 0) sResend (fun t =>
    (((ch t C).ring 3).stop 0).again == [flit, flit0 .rsp] && !(((ch t C).ring 3).stop 1).dropping) = true := by decide +kernel
def sClaim : State := at0 (fun k =>
  let x := k.ring 3
  k.setRing 3 (((x.setStop 0 { x.stop 0 with rcv := [flit] }).setSlot 0 { x.slot 0 with tag := 3, flit := some flit })
    |> fun x => { x with step := 1000 })) s0
theorem witness_RingSteps_claim : claimDue sClaim C 3 0 = true ∧ nx (.injectionClaim C 3 0) sClaim (fun t =>
    (((ch t C).ring 3).stop 0).claim && (((ch t C).ring 3).slot 0).claim == some 0) = true := by decide +kernel
def sFrame : State := at0 (fun k => k.setRing 3 { k.ring 3 with pend := some 3, table := 0, step := 4 }) s0
theorem witness_RingSteps_frame : frameDue sFrame C 3 = true ∧ nx (.slotFrameStart C 3) sFrame (fun t =>
    ((ch t C).ring 3).table == 0xC1010101 && ((ch t C).ring 3).pend == none) = true := by decide +kernel
/-- A flit with its CRC right. -/
def sealCrc (f : Flit) : Flit := { f with crc := f.check }
/-- A flit for stop d that has gone n laps after its turn came up. -/
def flitTo (d n : Nat) : Flit := sealCrc { mkFlit d 14 .out 0 pktV.hdr 0 (.egress .vrs pktV) with laps := n, turned := n != 0 }
/-- On X-ring 3 flit f comes to the stop of tile 12 (position 4), or from position 15 to the edge stop. -/
def sAt (f : Flit) (p : Nat) (g : Stop → Stop) : State := at0 (fun k =>
  let x := k.ring 3
  k.setRing 3 ((x.setSlot p { x.slot p with flit := some f }).setStop 1 (g (x.stop 1)))) s0
/-- The flit of the slot at position p after a step of X-ring 3, and the state. -/
def hop (s : State) (bad : List Nat) (p : Nat) (q : Option Flit → State → Bool) : Bool :=
  nx (.flitHop C 3 bad) s fun t => q (((ch t C).ring 3).slot p).flit t
/-- The stop has nothing to inject, and the flit comes to it with its CRC right. -/
def comes (s : State) (i : Nat) (f : Flit) : Bool :=
  let x := (ch s C).ring 3
  (x.stop i).again == [] && (x.stop i).turn.isNone && (x.stop i).heads == [] && !(x.stop i).dropping && f.crc == f.check &&
    ((x.rotate false).slot (stopPos i)).flit == some f && ringRuns s C 3
set_option maxRecDepth 100000 in
theorem witness_RingSteps_drop : comes (sAt (flitTo 14 0) 3 id) 1 (flitTo 14 0) = true ∧
    hop (sAt (flitTo 14 0) 3 fun p => { p with dropping := true }) [] 4 (fun f _ => f.isNone) = true ∧
    ({ flitTo 14 0 with crc := ~~~(flitTo 14 0).crc }).check ≠ ~~~(flitTo 14 0).crc ∧
    hop (sAt (flitTo 14 0) 3 id) [4] 4 (fun f t => f.isNone && (((ch t C).ring 3).stop 1).dropping) = true := by decide +kernel
set_option maxRecDepth 100000 in
theorem witness_RingSteps_eject : comes (sAt (flitTo 19 0) 15 id) 0 (flitTo 19 0) = true ∧ stopId 3 0 = 19 ∧
    hop (sAt (flitTo 19 0) 15 id) [] 0 (fun f t => f.isNone && (ch t C).vrs.map (·.hdr) == [pktV.hdr]) = true := by decide +kernel
set_option maxRecDepth 100000 in
theorem witness_RingSteps_pass : stopId 3 1 = 12 ∧ turnTo 3 1 (flitTo 14 0) = none ∧ replayFull (ch (sAt (flitTo 14 0) 3 id) C) 3 1 = false ∧
    hop (sAt (flitTo 14 0) 3 id) [] 4 (fun f _ => f.map (·.dest) == some 14) = true := by decide +kernel
/-- Tile 0 is on Y-ring 4, which the flit joins at its stop 4, position 13. -/
def sTurn (n : Nat) (full : Bool) : State := at0 (fun k => if full = true then
  k.setRing 4 ((k.ring 4).setSlot 13 { (k.ring 4).slot 13 with flit := some (flitTo 20 0) }) else k) (sAt (flitTo 0 n) 3 id)
set_option maxRecDepth 100000 in
theorem witness_RingSteps_turn : turnTo 3 1 (flitTo 0 0) = some (4, 4) ∧ comes (sTurn 0 false) 1 (flitTo 0 0) = true ∧
    (((ch (sTurn 0 false) C).ring 4).slot 13).flit = none ∧ mayUse (((ch (sTurn 0 false) C).ring 4).slot 13) 4 = true ∧
    tagOpen (((ch (sTurn 0 false) C).ring 4).slot 13).tag .out = true ∧
    (((ch (sTurn 0 false) C).ring 4).stop 4).again = [] ∧ (((ch (sTurn 0 false) C).ring 4).stop 4).turn = none ∧
    replayFull (ch (sTurn 0 false) C) 4 4 = false ∧ ringHeld (ch (sTurn 0 false) C) 4 = false ∧
    hop (sTurn 0 false) [] 4 (fun f t => f.isNone && (((ch t C).ring 4).slot 13).flit.map (·.dest) == some 0) = true := by decide +kernel
set_option maxRecDepth 100000 in
theorem witness_RingSteps_deflect : comes (sTurn 0 true) 1 (flitTo 0 0) = true ∧
    (((ch (sTurn 0 true) C).ring 4).slot 13).flit ≠ none ∧ turnPress (sTurn 0 true) C = 2 ∧
    replayFull (ch (sTurn 0 true) C) 3 1 = false ∧
    hop (sTurn 0 true) [] 4 (fun f _ => f.map (fun g => (g.dest, g.laps)) == some (0, 0)) = true ∧
    turnFree (ch (sTurn 7 true) C) (stopId 4 4) = true ∧
    hop (sTurn 7 true) [] 4 (fun f t => f.isNone && (((ch t C).ring 4).stop 4).turn.map (fun g => (g.dest, g.laps)) == some (0, 7)) = true := by
  decide +kernel
/-- Y-ring 4 has been retired: what turns there waits at its stop. -/
def sTurnR : State := at0 (fun k => k.setRing 4 { k.ring 4 with retired := true }) (sTurn 0 false)
set_option maxRecDepth 100000 in
theorem witness_RingSteps_turnRetired : comes sTurnR 1 (flitTo 0 0) = true ∧ ((ch sTurnR C).ring 4).retired = true ∧
    hop sTurnR [] 4 (fun f t => f.isNone && (((ch t C).ring 4).stop 4).heads.map (·.dest) == [0]) = true := by decide +kernel
/-- The slot that comes to tile 12's stop is empty. -/
def sInj (q : Slot) (g : Stop → Stop) : State := at0 (fun k =>
  let x := k.ring 3
  k.setRing 3 ((x.setSlot 3 q).setStop 1 (g (x.stop 1)))) s0
def injects (q : Slot) (g : Stop → Stop) (d : Nat) : Bool :=
  let s := sInj q g
  let z := (((ch s C).ring 3).rotate false).slot (stopPos 1)
  z.flit.isNone && mayUse z 1 && !replayFull (ch s C) 3 1 && !ringHeld (ch s C) 3 && ringRuns s C 3 &&
    hop s [] 4 fun f _ => f.any fun g => g.dest == d && g.crc == g.check
def rcvTo (d n : Nat) : Flit := { sealCrc (mkFlit d 12 .rcv 0 pktV.hdr 0 .steward) with born := n }
def rspTo (d n : Nat) : Flit := { sealCrc (mkFlit d 12 .rsp 0 pktV.hdr 0 .steward) with born := n }
set_option maxRecDepth 100000 in
theorem witness_RingSteps_inject : injects ⟨0, none, none⟩ (fun p => { p with again := [flitTo 14 0], turn := some (flitTo 13 0) }) 14 = true ∧
    injects ⟨0, none, none⟩ (fun p => { p with turn := some (flitTo 13 0), rcv := [rcvTo 15 9] }) 13 = true ∧
    injects ⟨0, none, none⟩ (fun p => { p with rcv := [rcvTo 15 9], rsp := [rspTo 14 4] }) 15 = true ∧
    injects ⟨0, some 1, none⟩ (fun p => { p with rcv := [rcvTo 15 9], rsp := [rspTo 14 4], claim := true }) 14 = true := by decide +kernel

-- ## Clocks, partners, integrity (02, 04, 12)

/-- Readings of 40 in every channel (R114, R115): below the threshold of 2400 MHz, 46 + 4. -/
def reads40 : List (List (BitVec 12)) := List.replicate 16 (List.replicate 17 40)
def sPace : State := at0 (fun k => { k with mhz := 2400 }) s0
theorem witness_Clocks : sPace.coldN = true ∧ powered (ch sPace C) = true ∧ threshOf (ch sPace C).mhz.toNat = 50 ∧
    nx (.barometerTick ⟨1, 0⟩ reads40) (alone sPace) (fun t => (ch t C).minNow == 40 && (ch t C).thresh == 50 && (ch t C).decision) = true := by
  decide +kernel
theorem witness_Clocks_window : windowDue s0 C = true ∧ serving s0 C = true ∧ (ch s0 C).aliveTick + 32 ≤ s0.tick ∧
    nx (.pclkWindowEnd C) s0 (fun t => (ch t C).mhz == 1562 && (ch t C).winStart == 5000) = true ∧
    nx (.aliveToggle C) s0 (fun t => (ch t C).alive && (ch t C).aliveTick == 5000) = true := by decide +kernel
/-- Adapter 5 and the channel's memory controller are monitored (Tables 2-6, 2-7). -/
def sWatch : State := alone { withApp [(0x58, 0x20), (0x78, 0x4000)] s0 with tick := 2 ^ 24 }
theorem witness_Partners : adLate sWatch 5 = true ∧ adLate s0 5 = false ∧
    nx (.adapterLost 5) sWatch (fun t => t.adLost == 0x20) = true ∧
    nx (.adAliveTransition 5) s0 (fun t => t.adLevel == 0x20 && Tab.get? t.adSince 5 == some 5000) = true := by decide +kernel
theorem witness_Partners_mc : mcLate sWatch C = true ∧ mcLate s0 C = false ∧ (ch sWatch C).cause = .none ∧
    nx (.mcLost C) sWatch (fun t => t.mcLost == 0x4000 && (ch t C).fence && (ch t C).cause == .mcLost) = true ∧
    nx (.mcAliveTransition C) s0 (fun t => t.mcLevel == 0x4000 && Tab.get? t.mcSince 14 == some 5000) = true := by decide +kernel
def sGauge : State := modTile C 3 (fun x => { x with fails := [(2, 5)] })
  (at0 (fun k => { k with gauges := k.gauges.set 6 9 }) { s0 with jrnGauge := 4, tick := 2 ^ 40 })
theorem witness_IntegrityIntervals : leakDue sGauge C 6 = true ∧ leakDue sGauge C 7 = true ∧ decayDue sGauge C 3 2 = true ∧
    leakDue { sGauge with tick := 1023 } C 6 = false ∧ leakDue { sGauge with tick := 1023 } C 7 = false ∧
    decayDue { sGauge with tick := 1023 } C 3 2 = false ∧
    nx (.gaugeLeak C 6) sGauge (fun t => (ch t C).gauges[6] == 8) = true ∧
    nx (.gaugeLeak C 7) sGauge (fun t => t.jrnGauge == 3) = true ∧
    nx (.wayCountDecay C 3 2) sGauge (fun t => Tab.getD (tile t C 3).fails 2 0 == 4) = true := by decide +kernel
def sScrub : State := withApp [(addrC 14 0xC 0x40, 1)] s0
theorem witness_IntegrityIntervals_scrub : scrubs sScrub C = true ∧
    scrubDue sScrub C 14 = true ∧ grantOf (tile sScrub C 14) .sf = none ∧ reqsOf (tile sScrub C 14) .sf = [] ∧
    (ch sScrub C).scrubQAt + scrubInterval sScrub C ≤ sScrub.tick ∧ running sScrub = true ∧
    sScrub.jrnScrubAt + jrnInterval ≤ sScrub.tick ∧
    nx (.scrubStep (.tile C 14)) sScrub (fun t => (tile t C 14).scrubPos == 1) = true ∧
    nx (.scrubStep (.chan C)) sScrub (fun t => (ch t C).scrubQ == 1) = true ∧
    nx (.scrubStep .journal) sScrub (fun t => t.jrnScrub == 1) = true := by decide +kernel
/-- The port is a flow's: the scrubber's request waits. -/
theorem witness_IntegrityIntervals_wait : scrubDue (granted .sf sScrub) C 14 = true ∧
    nx (.scrubStep (.tile C 14)) (granted .sf sScrub) (fun t => (tile t C 14).scrubPos == 0 &&
      (reqsOf (tile t C 14) .sf).map (·.who) == [.scrub]) = true := by decide +kernel

-- ## Recovery (13)

/-- An action of the stewards runs; queue 8 has room. -/
def acting (a : Action) (s : State) : State :=
  withApp [(queueAddr C 8, 0x5555)] (at0 (fun k => { k with action := some a }) s)
theorem witness_RecoveryActions_watch : watchDue (running0 0 { ent with watch := 255 }) C 14 false = true ∧
    nx (.engineWatchdog C 14 ⟨false, false⟩) (running0 0 { ent with watch := 255 }) (fun t =>
      !engineUp t C 14 false && engineRun (tile t C 14) false == none) = true := by
  decide +kernel
/-- A failed check stops the engine before its watchdog would (R332). -/
theorem witness_RecoveryActions_check : (stepReady (running0 0 ent) C 14 false).isSome = true ∧
    watchDue (running0 0 ent) C 14 false = false ∧
    nx (.engineWatchdog C 14 ⟨false, true⟩) (running0 0 ent) (fun t => !engineUp t C 14 false) = true ∧
    nx (.engineWatchdog C 14 ⟨false, false⟩) (running0 0 ent) (fun t => engineUp t C 14 false) = true := by
  decide +kernel
def sFail (b : Bool) : State := acting (.failover 14 false) (modTile C 14 (fun x => { x with fault0 := true, fail1 := b }) s0)
theorem witness_RecoveryActions_failover : runningAction (sFail false) C = some (.failover (14 : TileId) false) ∧
    engineUp (sFail false) C 14 true = true ∧ engineUp (sFail true) C 14 true = false ∧ (ch (sFail false) C).queueOf = [] ∧
    nx (.engineFailover C 14 false) (sFail false) (fun t => (tile t C 14).fail0 && (ch t C).cause == .none && (ch t C).action == none) = true ∧
    nx (.engineFailover C 14 false) (sFail true) (fun t => (ch t C).cause == .engines && (ch t C).fence) = true := by decide +kernel
def sShadow : State := acting (.rebuild 14 true 7)
  (modTile C 14 (fun x => { x with overlay := [(rowKey 6 14 7, ⟨List.replicate 8 0, 3, 3, true, List.replicate 8 0⟩)] }) s0)
theorem witness_RecoveryActions_rebuild : runningAction sShadow C = some (.rebuild (14 : TileId) true 7) ∧
    overOutcome (tile sShadow C 14) (14 : TileId) 6 7 = .bad ∧
    nx (.shadowRebuild C 14 true ⟨7, false⟩) sShadow (fun t => overOutcome (tile t C 14) (14 : TileId) 6 7 == .good) = true ∧
    nx (.shadowRebuild C 14 true ⟨7, true⟩) sShadow (fun t => (ch t C).cause == .tracker) = true := by decide +kernel
theorem witness_RecoveryActions_ring : runningAction (acting (.ringRetire 3) s0) C = some (.ringRetire (3 : Fin 8)) ∧
    nx (.ringRetirement C 3) (acting (.ringRetire 3) s0) (fun t => ((ch t C).ring 3).retired && (ch t C).xret == 8) = true ∧
    nx (.ringRetirement C 3) (at0 (fun k => { k with xret := 1 }) (acting (.ringRetire 3) s0)) (fun t => (ch t C).cause == .ring) = true := by
  decide +kernel
theorem witness_RecoveryActions_watchdog : recoveryLate { acting (.ringRetire 3) s0 with tick := 2 ^ 20 } C = true ∧
    nx (.recoveryWatchdog C) { acting (.ringRetire 3) s0 with tick := 2 ^ 20 } (fun t => (ch t C).cause == .watchdog) = true := by
  decide +kernel
/-- The step in hand has disagreed n times. -/
def sRoll (n : Nat) : State := at0 (fun k => { k with
  action := some (.ringRetire 3), disagreed := n, ckpt := Vector.replicate 2 (some (.ringRetire 3)) }) s0
theorem witness_RecoveryActions_steward : enginesRun (sRoll 0) C = true ∧ (ch (sRoll 0) C).simplex = false ∧
    recovering (ch (sRoll 0) C) = true ∧
    nx (.stewardRollback C ⟨true, true, true⟩) (sRoll 0) (fun t => (ch t C).action == some (.ringRetire 3) &&
      (ch t C).disagreed == 0) = true ∧
    nx (.stewardRollback C ⟨false, true, true⟩) (sRoll 0) (fun t => (ch t C).action == some (.ringRetire 3) &&
      (ch t C).disagreed == 2) = true := by
  decide +kernel
theorem test_stewardRollback : nx (.stewardRollback C ⟨false, false, false⟩) (sRoll 0) (fun t => (ch t C).cause == .steward) = true ∧
    nx (.stewardRollback C ⟨false, true, false⟩) (sRoll 0) (fun t => (ch t C).simplex && (ch t C).stewardOff) = true ∧
    nx (.stewardRollback C ⟨true, true, true⟩) (sRoll 2) (fun t => (ch t C).cause == .steward) = true := by decide +kernel

/-- Row 5 of tile 14 holds an entry of agent 9, and two bits of it are wrong. -/
def sBroad (d : Bool) : State := acting (.broadcast 14 false 3584)
  (at0 (fun k =>
    let k := if d then allocCirrus L 0 (.x 12) 0 k else k
    { k with rows := Tab.put k.rows (rowKey 0 14 3584) ⟨3, 3, false⟩ }) s0)
theorem witness_LostLines : runningAction (sBroad false) C = some (.broadcast (14 : TileId) false 3584) ∧
    recoveryPairs (ch (sBroad false) C) C 14 false 3584 = [] ∧
    nx (.broadcastInvalidation C 14 false 3584) (sBroad false) (fun t => rowOutcome (ch t C) (rowKey 0 14 3584) == .good &&
      (tile t C 14).biRows == []) = true := by decide +kernel
theorem witness_LostLines_pairs : runningAction (sBroad true) C = some (.broadcast (14 : TileId) false 3584) ∧
    recoveryPairs (ch (sBroad true) C) C 14 false 3584 ≠ [] ∧
    (recoveryPairs (ch (sBroad true) C) C 14 false 3584).all (fun p => bgFree (sBroad true) C 14 (.recovery, p.1)) = true ∧
    evictTaken (tile (sBroad true) C 14) < evictMax (sBroad true) C ∧
    (freeEntry (tile (sBroad true) C 14)).isSome = true ∧
    nx (.broadcastInvalidation C 14 false 3584) (sBroad true) (fun t => (tile t C 14).biRows == [(false, 3584, false)] &&
      (lookup (ch t C) L).dir == .i && (tile t C 14).ents.map (fun x => x.2.work) == [.recovery]) = true := by decide +kernel
/-- Agent 12 is being reclaimed; its walk in tile 14 is at the set of line L. -/
def sWalk (d : Bool) (e : Bool) : State :=
  let s := if d then at0 (allocCirrus L 0 (.x 12) 0) s0 else s0
  let s := if e then withEnt { ent with agent := 9 } s else s
  at0 (fun k => { k with walks := [⟨12, Vector.replicate 16 2048, 0, []⟩], walkPos := Vector.replicate 16 896 }) s
theorem witness_LostLines_walk : enginesRun (sWalk false false) C = true ∧ (walkers (ch (sWalk false false) C) 14).isEmpty = false ∧
    (∀ x ∈ setRows 896, rowOutcome (ch (sWalk false false) C) (rowKey x.1 14 x.2) = .good) ∧
    reclaimTarget (ch (sWalk false false) C) C 14 896 (walkers (ch (sWalk false false) C) 14) = none ∧
    nx (.reclaimStep C 14) (sWalk false false) (fun t => (ch t C).walkPos[14] == 897 && (ch t C).walkPos[3] == 896) = true := by
  decide +kernel
theorem witness_LostLines_held :
    ((reclaimTarget (ch (sWalk true true) C) C 14 896 (walkers (ch (sWalk true true) C) 14)).any fun x =>
      x.2.2 == L && openLine (ch (sWalk true true) C) x.2.2) = true ∧
    nx (.reclaimStep C 14) (sWalk true true) (fun t => (ch t C).walkPos[14] == 896 && (lookup (ch t C) L).dir == .x 12) = true ∧
    nx (.reclaimStep C 14) (sWalk true false) (fun t => (lookup (ch t C) L).dir == .i) = true := by decide +kernel
theorem witness_RecoveryActions_shadow : runningAction (acting (.rebuild 14 true 7) s0) C = some (.rebuild (14 : TileId) true 7) ∧
    overOutcome (tile (acting (.rebuild 14 true 7) s0) C 14) (14 : TileId) 6 7 ≠ .bad ∧
    nx (.shadowRebuild C 14 true ⟨7, true⟩) (acting (.rebuild 14 true 7) s0) (fun t =>
      (ch t C).cause == .none && (tile t C 14).shadowBad == []) = true ∧
    enginesRun s0 C = true ∧ (ch s0 C).simplex = false ∧ (ch s0 C).action ≠ some (.rebuild (14 : TileId) true 7) ∧
    nx (.shadowRebuild C 14 true ⟨7, true⟩) s0 (fun t => asked (ch t C) (.rebuild 14 true 7) && shadowLost (tile t C 14) true 7) = true := by
  decide +kernel
/-- A row of the extension words is lost, where the set of line L holds a vector of two agents or nothing. -/
def sExt (d : Bool) : State := acting (.broadcast 14 true 112)
  (at0 (fun k =>
    let k := if d then allocCirrus L 0 (.s (.wide 0x1001) none) 0 k else k
    if d then k else { k with rows := Tab.put k.rows (rowKey 1 14 112) ⟨3, 3, false⟩ }) s0)
theorem witness_LostLines_ext : runningAction (sExt false) C = some (.broadcast (14 : TileId) true 112) ∧
    recoveryPairs (ch (sExt false) C) C 14 true 112 = [] ∧
    nx (.broadcastInvalidation C 14 true 112) (sExt false) (fun t => rowOutcome (ch t C) (rowKey 1 14 112) == .good) = true := by
  decide +kernel
theorem witness_LostLines_port : stepGranted (sBroad true) C 14 .sf .recovery = true ∧ landingIn (sBroad true) C 14 = false ∧
    stepGranted (sBroad false) C 14 .sf .recovery = true ∧ stepGranted (sExt true) C 14 .sf .recovery = true ∧
    stepGranted (granted .sf (sBroad true)) C 14 .sf .recovery = false ∧
    nx (.broadcastInvalidation C 14 false 3584) (granted .sf (sBroad true)) (fun t =>
      (reqsOf (tile t C 14) .sf).map (·.who) == [.recovery] && (tile t C 14).biRows == []) = true := by decide +kernel
theorem witness_LostLines_extPairs : recoveryPairs (ch (sExt true) C) C 14 true 112 ≠ [] ∧
    (recoveryPairs (ch (sExt true) C) C 14 true 112).all (fun p => bgFree (sExt true) C 14 (.recovery, p.1)) = true ∧
    evictTaken (tile (sExt true) C 14) < evictMax (sExt true) C ∧ (freeEntry (tile (sExt true) C 14)).isSome = true ∧
    nx (.broadcastInvalidation C 14 true 112) (sExt true) (fun t => rowOutcome (ch t C) (rowKey 1 14 112) == .good &&
      (tile t C 14).ents.map (fun x => x.2.work) == [.recovery]) = true := by decide +kernel
theorem witness_LostLines_waits : enginesRun (granted .sf (sWalk false false)) C = true ∧
    (walkers (ch (granted .sf (sWalk false false)) C) 14).isEmpty = false ∧
    stepGranted (granted .sf (sWalk false false)) C 14 .sf .reclaim = false ∧ stepGranted (sWalk false false) C 14 .sf .reclaim = true ∧
    nx (.reclaimStep C 14) (granted .sf (sWalk false false)) (fun t => (reqsOf (tile t C 14) .sf).map (·.who) == [.reclaim] &&
      (ch t C).walkPos[14] == 896) = true := by decide +kernel
/-- One command is open, two ranges are held, and a command waits. -/
def sBooks : State := { withEntry 1 .running s0 with
  holds := [(0, ⟨64, 6, 3, true, 1024, 9000, 1⟩), (5, ⟨128, 7, 4, true, 1024, 9000, 1⟩)], pending := [.acquire 0 256 6 1] }
theorem witness_StepKeepsLedgers : Ledgers sBooks := by
  have hj : ∀ x ∈ sBooks.jrn, x.1 = jSlot x.2.seq ∧ x.2.seq < sBooks.jrnNext := by decide +kernel
  have hh : ∀ x ∈ sBooks.holds, x.1 < 64 ∧ x.2.size ≤ 46 ∧ x.2.base.toNat % 2 ^ x.2.size = 0 := by decide +kernel
  have ha : ∀ x ∈ sBooks.holds, ∀ y ∈ sBooks.holds, x.1 ≠ y.1 → overlaps x.2.base x.2.size y.2.base y.2.size = false := by
    decide +kernel
  have mem {α : Type} : ∀ (l : Tab α) {n : Nat} {v : α}, Tab.get? l n = some v → (n, v) ∈ l := by
    intro l n v h
    induction l with
    | nil => cases h
    | cons x r ih =>
      obtain ⟨j, w⟩ := x
      unfold Tab.get? at h
      split at h
      · next hj => cases h; exact hj ▸ .head _
      · exact .tail _ (ih h)
  exact ⟨fun n e h => hj _ (mem _ h), by decide +kernel, by decide +kernel, fun n h g => hh _ (mem _ g),
    fun m n g h d hg hh => ha _ (mem _ hg) _ (mem _ hh) d⟩
theorem test_StepKeepsLedgers : (match step sBooks with | .next t => t.jrnNext == 3 && t.holds.length == 3 | _ => false) = true := by
  decide +kernel

end Sys2Proof.Tests
end

section
/-! PROOFS. Host-port accesses that the guard lets through, registers that hold status fields alone, and BLK_IDENT (R3). -/

namespace Sys2Proof.Machine

-- ## Accesses that reach their register (R40, R41, R351)

/-- A register that acts on a read does so when the read reaches it. -/
theorem hostAct_of_readReaches {s : State} {ctx : Ctx} {a : Nat} (act : State → State) (h : ReadReaches s ctx a) :
    hostAct ctx a act s = act s := by
  simp only [hostAct, h]

/-- A register acts on a write that reaches it. -/
theorem hostCmd_of_writeReaches {s : State} {ctx : Ctx} {a : Nat} (act : State → State) (h : WriteReaches s ctx a) :
    hostCmd ctx a act s = act s := by
  simp only [hostCmd, h]

/-- A read that the access rules permit is an ordinary read. -/
theorem exec_deniedRead_of_readReaches {s : State} {ctx : Ctx} {addr : HpAddr} (h : ReadReaches s ctx addr.toNat) :
    exec (.deniedRead ctx addr) s = .next (readAct ctx addr.toNat s) :=
  congrArg Host.Outcome.next (hostAct_of_readReaches _ h)

/-- REGISTER_WRITE is the register's own rule where the write reaches it. -/
theorem exec_registerWrite_of_writeReaches {s : State} {ctx : Ctx} {addr : HpAddr} (v : Word)
    (h : WriteReaches s ctx addr.toNat) :
    exec (.registerWrite ctx addr v) s = .next (writeAct ctx addr.toNat v s) :=
  congrArg Host.Outcome.next (hostCmd_of_writeReaches _ h)

-- ## Registers of status fields alone (R352, R353)

/-- On the block-level pages but the journal's, a read answers with the register and acts on nothing. -/
theorem readAct_blk {a p : Nat} (ctx : Ctx) (s : State) (hpage : pageOf a = some (.blk p)) (hp : p ≠ 3) :
    readAct ctx a s = respond (regRead s ctx a) s := by
  cases hview : secondView a with
  | true => simp [readAct, hview]
  | false => simp [readAct, hview, hpage, hp]

/-- In the first view, a register all of whose fields are ST reads as its status, whatever the state stores at its address;
IMG_DATA has a rule of its own. -/
theorem regRead_status {a : Nat} {pg : Page} (s : State) (ctx : Ctx) (hpage : pageOf a = some pg)
    (hview : secondView a = false) (hreg : regAt pg (viewOff a) = {}) (himg : pg.base + viewOff a ≠ 0xA078) :
    regRead s ctx a = BitVec.ofNat 64 (statusAt s pg (viewOff a)) := by
  simp [regRead, hpage, hview, hreg, himg]

/-- Nothing is staged or preset where a register has no CF, LK or CT field. -/
theorem stageAct_status {a : Nat} (ctx : Ctx) (v : Word) (s : State) (hreg : regOf a = {}) : stageAct ctx a v s = s := by
  simp [stageAct, hreg]

/-- A write of a register all of whose fields are ST is answered OK and does nothing else (R353, R446); PG_CTL and the journal
cursors have rules of their own. -/
theorem writeAct_status {a : Nat} (ctx : Ctx) (v : Word) (s : State) (hreg : regOf a = {}) (hctl : viewOff a ≠ 0x10)
    (hcur : ¬ (0x3040 ≤ firstView a ∧ firstView a < 0x30C0)) : writeAct ctx a v s = respond 0 s := by
  simp [writeAct, hreg, hctl, hcur, stageAct_status]

-- ## BLK_IDENT (R3)

/-- The register at 0x40 lies in the block identification page. -/
theorem pageOf_blkIdent : pageOf 0x40 = some (.blk 0) := rfl

/-- BLK_IDENT has no field of any class but ST. -/
theorem regOf_blkIdent : regOf 0x40 = {} := rfl

/-- The fields of Table 0-2, as one word. -/
theorem statusAt_blkIdent (s : State) : statusAt s (.blk 0) 0x40 = 0x4B4D011010111640 := rfl

theorem regRead_blkIdent (s : State) (ctx : Ctx) : regRead s ctx 0x40 = 0x4B4D_0110_1011_1640#64 :=
  (regRead_status s ctx pageOf_blkIdent rfl rfl (by decide)).trans
    (congrArg (BitVec.ofNat 64) (statusAt_blkIdent s))

/-- Settles O13: the fields of BLK_IDENT are all status fields whose value no part of the state enters, so a read answers with
the word of Table 0-2 and a write finds no field to stage or preset (R3, R353). -/
theorem blkIdent : Obligations.BlkIdent := by
  unfold Obligations.BlkIdent
  intro s ctx v
  constructor
  · intro hread
    calc exec (.deniedRead ctx 0x40) s
      _ = .next (readAct ctx 0x40 s) := exec_deniedRead_of_readReaches hread
      _ = .next (respond (regRead s ctx 0x40) s) := by rw [readAct_blk ctx s pageOf_blkIdent (by decide)]
      _ = .next (sendRsp ⟨0, 0x4B4D_0110_1011_1640#64⟩ s) := by rw [regRead_blkIdent, respond]
  · intro hwrite
    calc exec (.registerWrite ctx 0x40 v) s
      _ = .next (writeAct ctx 0x40 v s) := exec_registerWrite_of_writeReaches v hwrite
      _ = .next (respond 0 s) := by rw [writeAct_status ctx v s regOf_blkIdent (by decide) (by decide)]
      _ = .next (sendRsp ⟨0, 0⟩ s) := rfl

end Sys2Proof.Machine
end

section
/-! PROOFS. The address hashes as folds of the region number (R12, R13), the bit ranges of Table 1-4, and the recovery of a
line from its stored bits (R17). -/

namespace Sys2Proof.Machine

-- ## The folds (R12, R13)

/-- The fold over n + k bits goes on from the fold over the first n with those of the next k that have the residue. -/
theorem foldBit_add (g : BitVec 40) (m j n k : Nat) :
    foldBit g m j (n + k) =
      ((List.range k).filter fun i => (n + i) % m = j).foldl (fun p i => xor p (g.getLsbD (n + i))) (foldBit g m j n) := by
  induction k with
  | zero => rfl
  | succ k ih =>
    rw [← Nat.add_assoc, List.range_succ, List.filter_append, List.foldl_append, ← ih, foldBit]
    by_cases h : (n + k) % m = j <;> simp [h]

/-- The fold over n bits is the parity of the bits below n that have the residue. -/
theorem foldBit_eq_foldl (g : BitVec 40) (m j n : Nat) :
    foldBit g m j n = ((List.range n).filter fun i => i % m = j).foldl (fun p i => xor p (g.getLsbD i)) false := by
  simpa [foldBit] using foldBit_add g m j 0 n

/-- Bits that are clear add nothing to a fold. -/
theorem foldBit_of_clear {g : BitVec 40} (m j : Nat) {n : Nat} (h : ∀ i < n, g.getLsbD i = false) :
    foldBit g m j n = false := by
  induction n with
  | zero => rfl
  | succ n ih => simp [foldBit, ih fun i hi => h i (Nat.lt_succ_of_lt hi), h n (Nat.lt_succ_self n)]

/-- The fold is linear. -/
theorem foldBit_xor (g g' : BitVec 40) (m j n : Nat) :
    foldBit (g ^^^ g') m j n = xor (foldBit g m j n) (foldBit g' m j n) := by
  induction n with
  | zero => rfl
  | succ n ih =>
    rw [foldBit, foldBit, foldBit, ih, BitVec.getLsbD_xor]
    by_cases h : n % m = j <;> simp [h, Bool.xor_left_comm]

-- ## Channel and tile, bit by bit

/-- The number whose lowest four bits are f 0 to f 3. -/
def nibble (f : Nat → Bool) : Nat := (f 0).toNat + 2 * (f 1).toNat + 4 * (f 2).toNat + 8 * (f 3).toNat

theorem nibble_lt (f : Nat → Bool) : nibble f < 16 := by
  have hbits : ∀ a b c d : Bool, a.toNat + 2 * b.toNat + 4 * c.toNat + 8 * d.toNat < 16 := by decide
  exact hbits (f 0) (f 1) (f 2) (f 3)

theorem testBit_nibble (f : Nat → Bool) {j : Nat} (hj : j < 4) : (nibble f).testBit j = f j := by
  have hbits : ∀ a b c d : Bool, ∀ i < 4,
      (a.toNat + 2 * b.toNat + 4 * c.toNat + 8 * d.toNat).testBit i = [a, b, c, d].getD i false := by decide
  rw [nibble, hbits _ _ _ _ j hj]
  match j, hj with
  | 0, _ | 1, _ | 2, _ | 3, _ => rfl

theorem channelOf_eq_nibble (l : LAddr) : channelOf l = nibble fun j => foldBit (regionOf l) 4 j 40 := by
  simp only [channelOf, nibble]

theorem tileOf_eq_nibble (l : LAddr) : tileOf l = nibble fun j => foldBit (regionOf l) 5 j 40 := by
  simp only [tileOf, nibble]

theorem channelOf_lt (l : LAddr) : channelOf l < 16 := channelOf_eq_nibble l ▸ nibble_lt _

theorem tileOf_lt (l : LAddr) : tileOf l < 16 := tileOf_eq_nibble l ▸ nibble_lt _

theorem testBit_channelOf (l : LAddr) {j : Nat} (hj : j < 4) : (channelOf l).testBit j = foldBit (regionOf l) 4 j 40 := by
  rw [channelOf_eq_nibble, testBit_nibble _ hj]

theorem testBit_tileOf (l : LAddr) {j : Nat} (hj : j < 4) : (tileOf l).testBit j = foldBit (regionOf l) 5 j 40 := by
  rw [tileOf_eq_nibble, testBit_nibble _ hj]

/-- Settles O9: the model's recursion is the parity over the bits of one residue, and channel and tile are the numbers that
have four of these parities as their bits (R12, R13). -/
theorem channelAndTile : Obligations.ChannelAndTile := by
  unfold Obligations.ChannelAndTile
  intro l j hj
  refine ⟨?_, ?_, channelOf_lt l, tileOf_lt l⟩
  · rw [testBit_channelOf l hj, foldBit_eq_foldl]
  · rw [testBit_tileOf l hj, foldBit_eq_foldl]

-- ## What the hashes say of PA[51:44] (R17)

theorem getLsbD_regionOf (l : LAddr) (i : Nat) : (regionOf l).getLsbD i = l.getLsbD (6 + i) := by
  by_cases hi : i < 40
  · simp [regionOf, hi]
  · simp [regionOf, hi, BitVec.getLsbD_of_ge l (6 + i) (by omega)]

theorem regionOf_xor (l l' : LAddr) : regionOf (l ^^^ l') = regionOf l ^^^ regionOf l' := by
  simp [regionOf, BitVec.ushiftRight_xor_distrib, BitVec.setWidth_xor]

/-- The line without PA[51:44], the bits that nothing stores. -/
def storedPart (l : LAddr) : LAddr := BitVec.ofNat 46 (l.toNat % 2 ^ 38)

theorem getLsbD_storedPart (l : LAddr) (i : Nat) : (storedPart l).getLsbD i = (decide (i < 38) && l.getLsbD i) := by
  rw [storedPart, BitVec.getLsbD_ofNat, Nat.testBit_mod_two_pow, BitVec.testBit_toNat]
  by_cases hi : i < 38
  · simp [Nat.lt_trans hi (by decide : 38 < 46)]
  · simp [hi]

/-- A line and its stored part differ in PA[51:44] alone. -/
theorem getLsbD_xor_storedPart (l : LAddr) (i : Nat) :
    (l ^^^ storedPart l).getLsbD i = (decide (38 ≤ i) && l.getLsbD i) := by
  rw [BitVec.getLsbD_xor, getLsbD_storedPart]
  by_cases hi : i < 38
  · simp [hi, Nat.not_le.2 hi]
  · simp [hi, Nat.not_lt.1 hi]

/-- PA[51:44] of a line. -/
def unstoredPart (l : LAddr) : Nat := l.toNat / 2 ^ 38

theorem testBit_unstoredPart (l : LAddr) (k : Nat) : (unstoredPart l).testBit k = l.getLsbD (38 + k) := by
  rw [unstoredPart, Nat.testBit_div_two_pow, Nat.add_comm, BitVec.testBit_toNat]

/-- The folds of a line and of its stored part differ by the fold of the eight bits that are not stored. -/
theorem foldBit_xor_storedPart (l : LAddr) (m j : Nat) :
    xor (foldBit (regionOf l) m j 40) (foldBit (regionOf (storedPart l)) m j 40) =
      ((List.range 8).filter fun k => (32 + k) % m = j).foldl (fun p k => xor p ((unstoredPart l).testBit k)) false := by
  have hclear : ∀ i < 32, (regionOf (l ^^^ storedPart l)).getLsbD i = false := by
    intro i hi
    rw [getLsbD_regionOf, getLsbD_xor_storedPart, decide_eq_false (by omega), Bool.false_and]
  have htop : ∀ k, (regionOf (l ^^^ storedPart l)).getLsbD (32 + k) = (unstoredPart l).testBit k := by
    intro k
    rw [getLsbD_regionOf, getLsbD_xor_storedPart, testBit_unstoredPart, ← Nat.add_assoc,
      decide_eq_true (Nat.le_add_right 38 k), Bool.true_and]
  rw [← foldBit_xor, ← regionOf_xor, foldBit_add _ m j 32 8, foldBit_of_clear m j hclear]
  simp only [htop]

/-- In the channel, the stored part's hash lacks PA[44+j] with PA[48+j]. -/
theorem testBit_channelOf_xor_storedPart (l : LAddr) :
    let d := channelOf l ^^^ channelOf (storedPart l)
    let u := unstoredPart l
    d.testBit 0 = xor (u.testBit 0) (u.testBit 4) ∧ d.testBit 1 = xor (u.testBit 1) (u.testBit 5) ∧
      d.testBit 2 = xor (u.testBit 2) (u.testBit 6) ∧ d.testBit 3 = xor (u.testBit 3) (u.testBit 7) := by
  have hfold : ∀ j < 4, (channelOf l ^^^ channelOf (storedPart l)).testBit j =
      ((List.range 8).filter fun k => (32 + k) % 4 = j).foldl (fun p k => xor p ((unstoredPart l).testBit k)) false := by
    intro j hj
    rw [Nat.testBit_xor, testBit_channelOf _ hj, testBit_channelOf _ hj, foldBit_xor_storedPart]
  refine ⟨?_, ?_, ?_, ?_⟩ <;> simp [hfold, List.range_succ]

/-- In the tile, the stored part's hash lacks PA[47], PA[48], PA[44] with PA[49], and PA[45] with PA[50]. -/
theorem testBit_tileOf_xor_storedPart (l : LAddr) :
    let e := tileOf l ^^^ tileOf (storedPart l)
    let u := unstoredPart l
    e.testBit 0 = u.testBit 3 ∧ e.testBit 1 = u.testBit 4 ∧ e.testBit 2 = xor (u.testBit 0) (u.testBit 5) ∧
      e.testBit 3 = xor (u.testBit 1) (u.testBit 6) := by
  have hfold : ∀ j < 4, (tileOf l ^^^ tileOf (storedPart l)).testBit j =
      ((List.range 8).filter fun k => (32 + k) % 5 = j).foldl (fun p k => xor p ((unstoredPart l).testBit k)) false := by
    intro j hj
    rw [Nat.testBit_xor, testBit_tileOf _ hj, testBit_tileOf _ hj, foldBit_xor_storedPart]
  refine ⟨?_, ?_, ?_, ?_⟩ <;> simp [hfold, List.range_succ]

/-- The eight bits of PA[51:44], as one number. -/
theorem unstoredPart_eq_sum (l : LAddr) :
    ((unstoredPart l).testBit 0).toNat + 2 * ((unstoredPart l).testBit 1).toNat + 4 * ((unstoredPart l).testBit 2).toNat +
        8 * ((unstoredPart l).testBit 3).toNat + 16 * ((unstoredPart l).testBit 4).toNat +
        32 * ((unstoredPart l).testBit 5).toNat + 64 * ((unstoredPart l).testBit 6).toNat +
        128 * ((unstoredPart l).testBit 7).toNat = unstoredPart l := by
  have hlt : unstoredPart l < 2 ^ 8 := by
    simp only [unstoredPart]
    omega
  simp only [Nat.toNat_testBit]
  omega

/-- The two parts of a line together are the line. -/
theorem storedPart_or_unstoredPart (l : LAddr) : storedPart l ||| BitVec.ofNat 46 (unstoredPart l * 2 ^ 38) = l := by
  refine BitVec.eq_of_getLsbD_eq fun i hi => ?_
  rw [BitVec.getLsbD_or, getLsbD_storedPart, BitVec.getLsbD_ofNat, Nat.testBit_mul_two_pow, testBit_unstoredPart]
  by_cases h : i < 38
  · simp [h, Nat.not_le.2 h]
  · have h38 : 38 ≤ i := Nat.not_lt.1 h
    simp [h, hi, h38]

/-- recover_top finds the bits that are not stored: it solves the eight equations of channel and tile for them. -/
theorem recoverTop_storedPart (l : LAddr) : recoverTop (channelOf l) (tileOf l) (storedPart l) = l := by
  obtain ⟨he0, he1, he2, he3⟩ := testBit_tileOf_xor_storedPart l
  obtain ⟨hd0, hd1, hd2, hd3⟩ := testBit_channelOf_xor_storedPart l
  have cancel_left : ∀ x y : Bool, xor (xor x y) x = y := by decide
  have cancel_right : ∀ x y : Bool, xor (xor x y) y = x := by decide
  calc recoverTop (channelOf l) (tileOf l) (storedPart l)
    _ = storedPart l ||| BitVec.ofNat 46 (unstoredPart l * 2 ^ 38) := by
      simp only [recoverTop, he0, he1, he2, he3, hd0, hd1, hd2, hd3, cancel_left, cancel_right,
        unstoredPart_eq_sum]
    _ = l := storedPart_or_unstoredPart l

-- ## Table 1-4

/-- A bit range of a line's byte address. -/
theorem toNat_extractLsb'_byteAddress (l : LAddr) (lo n : Nat) :
    ((BitVec.ofNat 52 (l.toNat * 64)).extractLsb' (6 + lo) n).toNat = l.toNat / 2 ^ lo % 2 ^ n := by
  have hlt : l.toNat * 64 < 2 ^ 52 := by omega
  rw [BitVec.extractLsb'_toNat, BitVec.toNat_ofNat, Nat.mod_eq_of_lt hlt, Nat.shiftRight_eq_div_pow, Nat.pow_add,
    ← Nat.div_div_eq_div_mul, Nat.mul_div_cancel _ (by decide)]

theorem cirrusLine_of_stored (l : LAddr) : cirrusLine (channelOf l) (tileOf l) (cirrusSet l) (sfTag l) = l := by
  have hlow : sfTag l * 2048 + cirrusSet l = l.toNat % 2 ^ 38 := by
    simp only [sfTag, cirrusSet]
    omega
  rw [cirrusLine, hlow]
  exact recoverTop_storedPart l

theorem stratusLine_of_stored (l : LAddr) :
    stratusLine (channelOf l) (tileOf l) (stratusSet l) (sfTag l) (lineInRegion l) = l := by
  have hset : stratusSet l / 64 = l.toNat / 64 % 32 := by
    simp only [stratusSet]
    omega
  have hlow : sfTag l * 2048 + stratusSet l / 64 * 64 + lineInRegion l = l.toNat % 2 ^ 38 := by
    simp only [hset, sfTag, lineInRegion]
    omega
  rw [stratusLine, hlow]
  exact recoverTop_storedPart l

theorem frameLine_of_stored (l : LAddr) : frameLine (channelOf l) (tileOf l) (lcSet l) (lcTag l) = l := by
  have hlow : lcTag l * 256 + lcSet l = l.toNat % 2 ^ 38 := by
    simp only [lcTag, lcSet]
    omega
  rw [frameLine, hlow]
  exact recoverTop_storedPart l

/-- Settles O10: the sets and tags are the bit ranges of Table 1-4, set and tag together are the line's stored part, and
recover_top adds to it the bits that channel and tile tell (R17). -/
theorem lineRecovered : Obligations.LineRecovered := by
  unfold Obligations.LineRecovered
  intro l pa
  have field := toNat_extractLsb'_byteAddress l
  refine ⟨?_, ?_, ?_, ?_, ?_, cirrusLine_of_stored l, stratusLine_of_stored l, frameLine_of_stored l⟩
  · exact ((field 0 11).trans (by simp [cirrusSet])).symm
  · rw [show (pa.extractLsb' 12 5).toNat = _ from field 6 5, show (pa.extractLsb' 17 6).toNat = _ from field 11 6]; rfl
  · exact (field 11 27).symm
  · exact ((field 0 8).trans (by simp [lcSet])).symm
  · exact (field 8 30).symm

end Sys2Proof.Machine
end

section
/-! PROOFS. What one occurrence of an event adds to the counters (R431, R435), what the acceptance of a request changes, and
RD_SPEC, which is accepted, counted and dropped (R103). -/

namespace Sys2Proof.Machine

-- ## The addition to one counter (R431, R435)

/-- COUNT of a CNT_VAL word that holds COUNT n and some OVF. -/
theorem bits_ofNat_count (n b : Nat) : bits (BitVec.ofNat 64 (n % 2 ^ 48 + b * 2 ^ 48)) 0 48 = n % 2 ^ 48 := by
  simp only [bits, BitVec.toNat_ofNat]
  omega

/-- An addition writes COUNT modulo 2^48, whether it wraps or not; what a wrap owes stands in the channel. -/
theorem bump_ct (c : Ch) (e amt : Nat) (o : Occ) (k : Nat) (s : State) :
    ∃ ovf, (bump c e amt o k s).ct = Tab.put s.ct (addrC c 0xF (0x48 + 16 * k))
      (BitVec.ofNat 64 (((cntVal s c k).toNat % 2 ^ 48 + amt) % 2 ^ 48 + ovf * 2 ^ 48)) := by
  unfold bump
  simp only
  split <;> exact ⟨_, rfl⟩

theorem bits_cntVal_bump_self (c : Ch) (e amt : Nat) (o : Occ) (k : Nat) (s : State) :
    bits (cntVal (bump c e amt o k s) c k) 0 48 = (bits (cntVal s c k) 0 48 + amt) % 2 ^ 48 := by
  obtain ⟨ovf, hct⟩ := bump_ct c e amt o k s
  have hcount : bits (cntVal s c k) 0 48 = (cntVal s c k).toNat % 2 ^ 48 := by simp [bits]
  rw [hcount, cntVal, ctWord, hct, Tab.getD_put_self, bits_ofNat_count]

/-- The counters of a channel stand at addresses of their own. -/
theorem cntVal_bump_ne {j k : Nat} (c : Ch) (e amt : Nat) (o : Occ) (s : State) (h : k ≠ j) :
    cntVal (bump c e amt o j s) c k = cntVal s c k := by
  obtain ⟨ovf, hct⟩ := bump_ct c e amt o j s
  have haddr : addrC c 0xF (0x48 + 16 * k) ≠ addrC c 0xF (0x48 + 16 * j) := by
    simp only [addrC]
    omega
  rw [cntVal, ctWord, hct, Tab.getD_put_ne _ _ _ haddr, cntVal, ctWord]

-- ## The additions of one occurrence

theorem cntVal_bumps_of_notMem {l : List Nat} {k : Nat} (c : Ch) (e amt : Nat) (o : Occ) (s : State) (h : k ∉ l) :
    cntVal (l.foldl (fun s j => bump c e amt o j s) s) c k = cntVal s c k := by
  induction l generalizing s with
  | nil => rfl
  | cons j r ih =>
    rw [List.foldl_cons, ih _ (List.not_mem_of_not_mem_cons h), cntVal_bump_ne _ _ _ _ _ (List.ne_of_not_mem_cons h)]

/-- A counter named once is added to once. -/
theorem bits_cntVal_bumps_of_mem {l : List Nat} {k : Nat} (c : Ch) (e amt : Nat) (o : Occ) (s : State) (hl : l.Nodup)
    (h : k ∈ l) :
    bits (cntVal (l.foldl (fun s j => bump c e amt o j s) s) c k) 0 48 = (bits (cntVal s c k) 0 48 + amt) % 2 ^ 48 := by
  induction l generalizing s with
  | nil => cases h
  | cons j r ih =>
    obtain ⟨hj, hr⟩ := List.nodup_cons.1 hl
    rw [List.foldl_cons]
    by_cases hk : k = j
    · subst hk
      rw [cntVal_bumps_of_notMem _ _ _ _ _ hj, bits_cntVal_bump_self]
    · rw [ih _ hr (List.mem_of_ne_of_mem hk h), cntVal_bump_ne _ _ _ _ _ hk]

/-- Where no counter freezes the others, the channel's counters do not freeze locally (R434). -/
theorem lFrozen_eq_false {s : State} {c : Ch} (h : ∀ k, k < 16 → (cntCfg s c k).getLsbD 12 = false) :
    lFrozen s c = false := by
  rw [lFrozen, List.any_eq_false]
  intro k hk
  rw [h k (List.mem_range.1 hk), Bool.false_and, Bool.false_and]
  exact Bool.false_ne_true

/-- A counter that does not select the event keeps its value, whether the counters are frozen or not. -/
theorem cntVal_countAll_of_not_selects {s : State} {c : Ch} {e k : Nat} {qs : List Nat} {o : Occ} (amt : Nat)
    (h : selects (cntCfg s c k) e qs o = false) : cntVal (countAll c e qs amt o s) c k = cntVal s c k := by
  unfold countAll
  split
  · rfl
  · exact cntVal_bumps_of_notMem _ _ _ _ _ (by simp [h])

/-- A counter that selects the event adds its weight, unless it is frozen. -/
theorem bits_cntVal_countAll_of_selects {s : State} {c : Ch} {e k : Nat} {qs : List Nat} {o : Occ} (amt : Nat)
    (hg : gFrozen s c = false) (hl : lFrozen s c = false) (hk : k < 16) (h : selects (cntCfg s c k) e qs o = true) :
    bits (cntVal (countAll c e qs amt o s) c k) 0 48 = (bits (cntVal s c k) 0 48 + amt) % 2 ^ 48 := by
  have hmem : k ∈ (List.range 16).filter fun j => selects (cntCfg s c j) e qs o := by simp [hk, h]
  simp only [countAll, hg, hl]
  exact bits_cntVal_bumps_of_mem _ _ _ _ _ (List.nodup_range.filter _) hmem

/-- A counter selects one event. -/
theorem selects_event {cfg : Word} {e : Nat} {qs : List Nat} {o : Occ} (h : selects cfg e qs o = true) :
    bits cfg 0 7 = e := by
  simp only [selects, Bool.and_eq_true, beq_iff_eq] at h
  obtain ⟨⟨⟨_, hev⟩, _⟩, _⟩ := h
  exact hev

/-- A counter of one event selects no other. -/
theorem selects_other {cfg : Word} {e e' : Nat} {qs : List Nat} {o : Occ} (qs' : List Nat) (o' : Occ)
    (h : selects cfg e qs o = true) (hne : e ≠ e') : selects cfg e' qs' o' = false :=
  Bool.eq_false_iff.2 fun h' => hne ((selects_event h).symm.trans (selects_event h'))

/-- Counting changes no configuration. -/
theorem Noted.cntCfg {c : Ch} {s t : State} (h : Noted c s t) (d : Ch) (k : Nat) : cntCfg t d k = cntCfg s d k := by
  simp only [Machine.cntCfg, appWord, h.app]

theorem Noted.gFrozen {c : Ch} {s t : State} (h : Noted c s t) (d : Ch) : gFrozen t d = gFrozen s d := by
  simp only [Machine.gFrozen, cfB, appWord, h.app]

-- ## Acceptance (R38, R177, R214)

/-- Beyond what counting writes, acceptance sets the port's stretch, the age stamp and the order numbers. -/
theorem noted_acceptCount (c : Ch) (r : ReqIn) (inst : InstId) (n : Nat) (s : State) :
    Noted c (modCh c (taken r.port s.pclk n) s) (acceptCount c r inst n s) :=
  (noted_paySamples ..).then_ev ..

theorem cntCfg_acceptCount (c : Ch) (r : ReqIn) (inst : InstId) (n k : Nat) (s : State) :
    cntCfg (acceptCount c r inst n s) c k = cntCfg s c k := (noted_acceptCount c r inst n s).cntCfg c k

theorem gFrozen_acceptCount (c : Ch) (r : ReqIn) (inst : InstId) (n : Nat) (s : State) :
    gFrozen (acceptCount c r inst n s) c = gFrozen s c := (noted_acceptCount c r inst n s).gFrozen c

/-- A counter of an event other than 0x05 keeps its value over an acceptance. -/
theorem cntVal_acceptCount {c : Ch} {e k : Nat} {qs : List Nat} {o : Occ} {s : State} (r : ReqIn) (inst : InstId) (n : Nat)
    (hne : e ≠ 0x05) (h : selects (cntCfg s c k) e qs o = true) :
    cntVal (acceptCount c r inst n s) c k = cntVal s c k :=
  cntVal_countAll_of_not_selects 1 (selects_other _ _ h hne)

theorem op_of_mem_accLines {op : ReqOp} {r : ReqIn} {inst : InstId} {rid x n : Nat} {age : BitVec 32} {q : Acc}
    (h : q ∈ accLines op r inst rid age x n) : q.op = op := by
  obtain ⟨_, _, rfl⟩ := List.mem_map.1 h
  rfl

/-- A request that no row of Table 4-1 refuses is accepted and served. -/
theorem acceptAct_of_unrefused {c : Ch} {op : ReqOp} {r : ReqIn} {s : State} (code : BitVec 6)
    (h : refusal s c (some op) r (instOf s c r) = none) :
    ∃ q lines, q.op = op ∧ q.occ = occOf r.laddr r.agent (instOf s c r) ∧
      acceptAct c (some op) code r s = serveReq c q lines (acceptCount c r (instOf s c r) (linesOf op r.subtype) s) := by
  unfold acceptAct
  simp only
  split
  · rename_i order hsome
    cases h.symm.trans hsome
  · exact ⟨_, _, rfl, rfl, rfl⟩

/-- A request that a row of Table 4-1 refuses is accepted and refused. -/
theorem acceptAct_of_refused {c : Ch} {op : ReqOp} {r : ReqIn} {s : State} {order : Nat} (code : BitVec 6)
    (h : refusal s c (some op) r (instOf s c r) = some order) :
    ∃ q lines, (∀ l ∈ lines, l.op = op) ∧
      acceptAct c (some op) code r s =
        refuseAct c order code q lines (acceptCount c r (instOf s c r) (linesOf op r.subtype) s) := by
  unfold acceptAct
  simp only
  split
  · rename_i order' hsome
    cases h.symm.trans hsome
    exact ⟨_, _, fun _ => op_of_mem_accLines, rfl⟩
  · rename_i hnone
    cases h.symm.trans hnone

-- ## RD_SPEC (R103)

theorem linesOf_rdSpec (sub : BitVec 7) : linesOf .rdSpec sub = 1 := rfl

theorem refuseLine_rdSpec {q : Acc} (c : Ch) (order : Nat) (s : State) (h : q.op = .rdSpec) :
    refuseLine c order q s = s := by simp [refuseLine, h]

/-- A refused RD_SPEC is counted, and a misroute recorded (R102). -/
theorem noted_refuseAct_rdSpec {lines : List Acc} (c : Ch) (order : Nat) (code : BitVec 6) (q : Acc) (s : State)
    (h : ∀ l ∈ lines, l.op = .rdSpec) : Noted c s (refuseAct c order code q lines s) := by
  unfold refuseAct
  refine forEach_keeps (P := Noted c s) lines (fun l hl u hu => ?_) ?_
  · rwa [refuseLine_rdSpec c order u (h l hl)]
  · split
    · exact (noted_ev ..).then_record ..
    · exact noted_ev ..

theorem serveReq_rdSpec {q : Acc} (c : Ch) (lines : List Acc) (s : State) (h : q.op = .rdSpec) :
    serveReq c q lines s = ev c 0x0A none q.occ s := by simp [serveReq, h]

/-- An RD_SPEC that no row of Table 4-1 refuses is counted. -/
theorem acceptAct_rdSpec_of_unrefused {c : Ch} {r : ReqIn} {s : State} (code : BitVec 6)
    (h : refusal s c (some .rdSpec) r (instOf s c r) = none) :
    acceptAct c (some .rdSpec) code r s =
      ev c 0x0A none (occOf r.laddr r.agent (instOf s c r)) (acceptCount c r (instOf s c r) 1 s) := by
  obtain ⟨q, lines, hop, hocc, hact⟩ := acceptAct_of_unrefused code h
  rw [hact, serveReq_rdSpec c lines _ hop, hocc, linesOf_rdSpec]

theorem noted_acceptAct_rdSpec (c : Ch) (code : BitVec 6) (r : ReqIn) (s : State) :
    Noted c (modCh c (taken r.port s.pclk 1) s) (acceptAct c (some .rdSpec) code r s) := by
  cases h : refusal s c (some .rdSpec) r (instOf s c r) with
  | none =>
    rw [acceptAct_rdSpec_of_unrefused code h]
    exact (noted_acceptCount ..).then_ev ..
  | some order =>
    obtain ⟨q, lines, hops, hact⟩ := acceptAct_of_refused code h
    rw [hact, linesOf_rdSpec]
    exact (noted_acceptCount ..).trans (noted_refuseAct_rdSpec c order code q _ hops)

/-- A counter of event 0x0A counts a served RD_SPEC once: its acceptance, an occurrence of 0x05, leaves the counter. -/
theorem bits_cntVal_acceptAct_rdSpec {c : Ch} {r : ReqIn} {s : State} {k : Nat} (code : BitVec 6)
    (hserved : refusal s c (some .rdSpec) r (instOf s c r) = none) (hfrozen : gFrozen s c = false)
    (hfrz : ∀ j, j < 16 → (cntCfg s c j).getLsbD 12 = false) (hk : k < 16)
    (hsel : selects (cntCfg s c k) 0x0A [] (occOf r.laddr r.agent (instOf s c r)) = true) :
    bits (cntVal (acceptAct c (some .rdSpec) code r s) c k) 0 48 = (bits (cntVal s c k) 0 48 + 1) % 2 ^ 48 := by
  have hcfg := cntCfg_acceptCount c r (instOf s c r) 1 (s := s)
  have hglobal : gFrozen (acceptCount c r (instOf s c r) 1 s) c = false := by rw [gFrozen_acceptCount, hfrozen]
  have hlocal : lFrozen (acceptCount c r (instOf s c r) 1 s) c = false :=
    lFrozen_eq_false fun j hj => by rw [hcfg, hfrz j hj]
  rw [acceptAct_rdSpec_of_unrefused code hserved, ← cntVal_acceptCount r (instOf s c r) 1 (by decide) hsel]
  rw [← hcfg] at hsel
  exact bits_cntVal_countAll_of_selects 1 hglobal hlocal hk hsel

/-- A fence finds nothing of an RD_SPEC to answer (R58, R80). -/
theorem exec_rdSpec_of_mayAccept {c : Ch} {r : ReqIn} {s : State} (h : mayAccept (passEdges r.gap s) c r.port = true) :
    exec (.rdSpec c r) s = .next (acceptAct c (some .rdSpec) (ReqOp.code .rdSpec) r (passEdges r.gap s)) := by
  refine congrArg Host.Outcome.next ?_
  simp [request, h]

/-- Settles O43: served or refused, an RD_SPEC does no more than its acceptance and what counting writes; served, it is an
occurrence of event 0x0A (R103). -/
theorem rdSpecDropped : Obligations.RdSpecDropped := by
  unfold Obligations.RdSpecDropped
  intro s c r p haccept
  exact ⟨acceptAct c (some .rdSpec) (ReqOp.code .rdSpec) r p, exec_rdSpec_of_mayAccept haccept,
    noted_acceptAct_rdSpec c _ r p,
    fun hserved hfrozen hfrz _ hk hsel => bits_cntVal_acceptAct_rdSpec _ hserved hfrozen hfrz hk hsel⟩

end Sys2Proof.Machine
end
